-- ==== Sys2Proof/Word.lean ====
section
/-!
DEFINITION. The widths of the block's words (00_scope.md R10, R15, R16): bytes, 32-bit command and
response words, 5-bit digest byte indices and 9-bit two's-complement thresholds and scores.
-/

namespace Sys2Proof

/-- A byte, 8 bits (R15); also a bucket index and a table index (R42, R44). -/
abbrev Byte := BitVec 8

/-- A command word or a response's data (R9, R10): 32 bits, bit 0 least significant (R49). -/
abbrev Word := BitVec 32

/-- A digest byte index, 0..31; every 5-bit value is valid (R43, R66). -/
abbrev DigestIdx := BitVec 5

/-- A 9-bit two's-complement pattern: the THR field and the SCORE register (R15, R68). -/
abbrev Nine := BitVec 9

end Sys2Proof
end

