-- ==== Sys2Proof/Config.lean ====
section
/-!
DEFINITION. What an implementation of the block fixes (00_scope.md section 5): the one parameter the
spec leaves open, `W` (92_eei_decisions.md D7, 93_implementation_defined.md U6). The spec leaves the
result of no command open, so there is no free value here.
-/

namespace Sys2Proof

/-- The implementation's parameters: `W` (`NUM_CHAR_BITS`), the width of NUM_CHAR, with its legal
range (R14). Each histogram counter is `W + 3` bits wide. -/
structure Config where
  W : Nat
  legal : 3 ≤ W ∧ W ≤ 32
  deriving DecidableEq, Repr

/-- The parameter values the spec takes when nothing else is said: `W = 32` (R14). -/
def Config.standard : Config := ⟨32, by decide⟩

end Sys2Proof
end

