-- ==== Sys2Proof/Syntax.lean ====
section
/-!
DEFINITION. The commands of NILS-CMD v1, one constructor per row of the opcode map (30_encoding.md
R69; 17 rows, of which CMP_RUN has two). Operands are the fields of the row's format (R64 to R68), so
no constructor carries a raw encoding.
-/

namespace Sys2Proof

/-- SEL of format `SI` (R67): which operand register CMP_RDOP reads. -/
inductive OperandReg where
  | cmpA
  | cmpB
  deriving DecidableEq, Repr

/-- A command: a row of R69 with its operands. -/
inductive Instr where
  /-- NOP (R105). -/
  | nop
  /-- ACC_CLEAR (R85). -/
  | accClear
  /-- ACC_INGEST byte (R86). -/
  | accIngest (c : Byte)
  /-- ACC_FINALIZE (R93). -/
  | accFinalize
  /-- ACC_RDDIG idx (R94). -/
  | accRddig (k : DigestIdx)
  /-- ACC_RDCNT (R95). -/
  | accRdcnt
  /-- CMP_LDA idx, byte (R96). -/
  | cmpLda (k : DigestIdx) (v : Byte)
  /-- CMP_LDB idx, byte (R97). -/
  | cmpLdb (k : DigestIdx) (v : Byte)
  /-- CMP_CPYA (R98). -/
  | cmpCpya
  /-- CMP_CPYB (R99). -/
  | cmpCpyb
  /-- CMP_RUN with TE = 0: no threshold (R100, R68). -/
  | cmpRun
  /-- CMP_RUN with TE = 1 and the 9-bit field THR, legal or not (R100, R68). -/
  | cmpRunThr (thr : Nine)
  /-- RD_STATUS (R106). -/
  | rdStatus
  /-- ST_CLEAR (R107). -/
  | stClear
  /-- CMP_RDOP A or B, idx (R103). -/
  | cmpRdop (sel : OperandReg) (k : DigestIdx)
  /-- RD_SCORE (R104). -/
  | rdScore
  /-- A word of the reserved opcode 0xF, with its other 28 bits (R108). -/
  | reservedF (rest : BitVec 28)
  deriving DecidableEq, Repr

end Sys2Proof
end

