-- ==== Sys2Proof/WellFormed.lean ====
section
/-!
DEFINITION. Which commands are well formed: those an assembler of R72 writes, with every operand in
its range. Bytes and indices are in range by their types (R43, R65, R66), so two checks are left: the
range of a threshold (R68) and the reserved opcode, which has no assembly form (R71, R108). The block
itself also decodes and answers the ill-formed ones (R72: "it can encode an out-of-range threshold").
-/

namespace Sys2Proof

/-- The THR patterns R68 lists as legal: 0x000..0x080 and 0x180..0x1FF. -/
def thrPatternLegal (thr : Nine) : Bool :=
  thr.toNat ≤ 0x080 || 0x180 ≤ thr.toNat

/-- A command an assembler accepts (R72). -/
def Instr.wellFormed : Instr → Bool
  | .cmpRunThr thr => thrPatternLegal thr
  | .reservedF _ => false
  | .nop | .accClear | .accIngest _ | .accFinalize | .accRddig _ | .accRdcnt
  | .cmpLda _ _ | .cmpLdb _ _ | .cmpCpya | .cmpCpyb | .cmpRun | .rdStatus | .stClear
  | .cmpRdop _ _ | .rdScore => true

end Sys2Proof
end

