-- ==== Sys2Proof/Decode.lean ====
section
/-!
DEFINITION. The decoder, total on all 2^32 words and rejecting by name (30_encoding.md R62 to R71),
and the encoder, written from the same formats (R64). A command is one whole 32-bit word, with no
byte serialization (R49), so both speak of words, not of bytes.
-/

namespace Sys2Proof

/-- Why a word is no row of the opcode map (R69, R70). Either way the block rejects it with
ILLEGAL_COMMAND (R120). -/
inductive DecodeError where
  /-- A reserved bit of the opcode's format is 1 (R70 step 2). -/
  | reservedBit
  /-- CMP_RUN with TE = 0 and THR not 0 (R70 step 3). -/
  | thresholdNotEnabled
  deriving DecidableEq, Repr

/-- The field `w[lo + len - 1 : lo]` (R16). -/
def field (w : Word) (lo len : Nat) : BitVec len := w.extractLsb' lo len

/-- OP, bits [31:28] (R63). -/
def opField (w : Word) : BitVec 4 := field w 28 4

/-- SEL as the select it means (R67). -/
def selOfBit (b : BitVec 1) : OperandReg := if b = 0 then .cmpA else .cmpB

/-- The bit SEL of a select (R67). -/
def bitOfSel : OperandReg → BitVec 1
  | .cmpA => 0
  | .cmpB => 1

/-- Step 2 of R70: the command, if the reserved bits of its format are 0. -/
def ifReservedZero (reservedZero : Bool) (i : Instr) : Except DecodeError Instr :=
  if reservedZero then .ok i else .error .reservedBit

/-- Format `N` (R64): bits [27:0] are reserved. -/
def formatN (w : Word) (i : Instr) : Except DecodeError Instr :=
  ifReservedZero (field w 0 28 == 0) i

/-- Format `B` (R64, R65): BYTE in [7:0], bits [27:8] reserved. -/
def formatB (w : Word) (f : Byte → Instr) : Except DecodeError Instr :=
  ifReservedZero (field w 8 20 == 0) (f (field w 0 8))

/-- Format `I` (R64, R66): IDX in [4:0], bits [27:5] reserved. -/
def formatI (w : Word) (f : DigestIdx → Instr) : Except DecodeError Instr :=
  ifReservedZero (field w 5 23 == 0) (f (field w 0 5))

/-- Format `IB` (R64 to R66): IDX in [12:8], BYTE in [7:0], bits [27:13] reserved. -/
def formatIB (w : Word) (f : DigestIdx → Byte → Instr) : Except DecodeError Instr :=
  ifReservedZero (field w 13 15 == 0) (f (field w 8 5) (field w 0 8))

/-- Format `SI` (R64, R66, R67): SEL in [8], IDX in [4:0], bits [27:9] and [7:5] reserved. -/
def formatSI (w : Word) (f : OperandReg → DigestIdx → Instr) : Except DecodeError Instr :=
  ifReservedZero (field w 9 19 == 0 && field w 5 3 == 0) (f (selOfBit (field w 8 1)) (field w 0 5))

/-- Format `T` (R64, R68): TE in [9], THR in [8:0], bits [27:10] reserved. With TE = 0, THR must be
0 (R70 step 3). -/
def formatT (w : Word) (noThreshold : Instr) (f : Nine → Instr) : Except DecodeError Instr :=
  if field w 10 18 != 0 then .error .reservedBit
  else if field w 9 1 == 1 then .ok (f (field w 0 9))
  else if field w 0 9 != 0 then .error .thresholdNotEnabled
  else .ok noThreshold

/-- The command of a word, or the name of what makes it illegal: the checks of R70 in their order.
The last arm is OP = 0xF, which R108 makes a row of its own. -/
def decode (w : Word) : Except DecodeError Instr :=
  match (opField w).toNat with
  | 0x0 => formatN w .nop
  | 0x1 => formatN w .accClear
  | 0x2 => formatB w .accIngest
  | 0x3 => formatN w .accFinalize
  | 0x4 => formatI w .accRddig
  | 0x5 => formatN w .accRdcnt
  | 0x6 => formatIB w .cmpLda
  | 0x7 => formatIB w .cmpLdb
  | 0x8 => formatN w .cmpCpya
  | 0x9 => formatN w .cmpCpyb
  | 0xA => formatT w .cmpRun .cmpRunThr
  | 0xB => formatN w .rdStatus
  | 0xC => formatN w .stClear
  | 0xD => formatSI w .cmpRdop
  | 0xE => formatN w .rdScore
  | _ => .ok (.reservedF (field w 0 28))

/-- The word that holds `v` at bits `[lo + n - 1 : lo]` and 0 elsewhere (R16). -/
def place {n : Nat} (lo : Nat) (v : BitVec n) : Word := v.setWidth 32 <<< lo

/-- The word of a command: the bit layouts of R64, with OP of R69 in bits [31:28]. -/
def encode : Instr → Word
  | .nop => place 28 0x0#4
  | .accClear => place 28 0x1#4
  | .accIngest c => place 28 0x2#4 ||| place 0 c
  | .accFinalize => place 28 0x3#4
  | .accRddig k => place 28 0x4#4 ||| place 0 k
  | .accRdcnt => place 28 0x5#4
  | .cmpLda k v => place 28 0x6#4 ||| place 8 k ||| place 0 v
  | .cmpLdb k v => place 28 0x7#4 ||| place 8 k ||| place 0 v
  | .cmpCpya => place 28 0x8#4
  | .cmpCpyb => place 28 0x9#4
  | .cmpRun => place 28 0xA#4
  | .cmpRunThr thr => place 28 0xA#4 ||| place 9 1#1 ||| place 0 thr
  | .rdStatus => place 28 0xB#4
  | .stClear => place 28 0xC#4
  | .cmpRdop sel k => place 28 0xD#4 ||| place 8 (bitOfSel sel) ||| place 0 k
  | .rdScore => place 28 0xE#4
  | .reservedF rest => place 28 0xF#4 ||| place 0 rest

/-- The word whose low `nbits` bits are those of `w` and whose other bits are 0. -/
def tableWord (nbits w : Nat) : Word := BitVec.ofNat 32 (w % 2 ^ nbits)

/-- The instruction the decoder reads from a word numbered as spec/opcode_table.json numbers it. Every
row has 32 bits and one word is transferred whole (R49, R62), so there is nothing to lay out. -/
def decodeTableWord (nbits w : Nat) : Option Instr :=
  match decode (tableWord nbits w) with
  | .ok i => some i
  | .error _ => none

/-- A row of the opcode map (R69): a word `w` selects it when `w AND mask = match`. -/
structure OpcodeRow where
  mnemonic : String
  pattern : Word
  mask : Word
  deriving DecidableEq, Repr

/-- "A word `w` selects a row when `(w AND mask) = match`" (R69). -/
def OpcodeRow.selects (r : OpcodeRow) (w : Word) : Bool := w &&& r.mask == r.pattern

/-- The row of the reserved opcode 0xF (R69, R108). -/
def reservedRow : OpcodeRow := ⟨"RESERVED_F", 0xF0000000, 0xF0000000⟩

/-- The row a command belongs to (R69). -/
def Instr.row : Instr → OpcodeRow
  | .nop => ⟨"NOP", 0x00000000, 0xFFFFFFFF⟩
  | .accClear => ⟨"ACC_CLEAR", 0x10000000, 0xFFFFFFFF⟩
  | .accIngest _ => ⟨"ACC_INGEST", 0x20000000, 0xFFFFFF00⟩
  | .accFinalize => ⟨"ACC_FINALIZE", 0x30000000, 0xFFFFFFFF⟩
  | .accRddig _ => ⟨"ACC_RDDIG", 0x40000000, 0xFFFFFFE0⟩
  | .accRdcnt => ⟨"ACC_RDCNT", 0x50000000, 0xFFFFFFFF⟩
  | .cmpLda _ _ => ⟨"CMP_LDA", 0x60000000, 0xFFFFE000⟩
  | .cmpLdb _ _ => ⟨"CMP_LDB", 0x70000000, 0xFFFFE000⟩
  | .cmpCpya => ⟨"CMP_CPYA", 0x80000000, 0xFFFFFFFF⟩
  | .cmpCpyb => ⟨"CMP_CPYB", 0x90000000, 0xFFFFFFFF⟩
  | .cmpRun => ⟨"CMP_RUN", 0xA0000000, 0xFFFFFFFF⟩
  | .cmpRunThr _ => ⟨"CMP_RUN", 0xA0000200, 0xFFFFFE00⟩
  | .rdStatus => ⟨"RD_STATUS", 0xB0000000, 0xFFFFFFFF⟩
  | .stClear => ⟨"ST_CLEAR", 0xC0000000, 0xFFFFFFFF⟩
  | .cmpRdop _ _ => ⟨"CMP_RDOP", 0xD0000000, 0xFFFFFEE0⟩
  | .rdScore => ⟨"RD_SCORE", 0xE0000000, 0xFFFFFFFF⟩
  | .reservedF _ => reservedRow

/-- The rows of the opcode map that are commands, all but the reserved opcode, in the map's order
(R69); a row is the same for every operand. -/
def commandRows : List OpcodeRow :=
  [ Instr.nop, .accClear, .accIngest 0, .accFinalize, .accRddig 0, .accRdcnt, .cmpLda 0 0, .cmpLdb 0 0,
    .cmpCpya, .cmpCpyb, .cmpRun, .cmpRunThr 0, .rdStatus, .stClear, .cmpRdop .cmpA 0, .rdScore ].map Instr.row

end Sys2Proof
end

