-- ==== Sys2Proof/Machine/State.lean ====
section
/-!
DEFINITION. The state of the block, whole (10_state.md), as plain data, with the host's side of the
two ports (00_scope.md R9, R10), the reasons a step can stop, and the state right after reset
(70_reset_and_hazards.md R137).
-/

namespace Sys2Proof.Machine

/-- The error codes a rejected command reports (60_exceptions.md R119). Codes 4..15 are never produced. -/
inductive ErrorCode where
  /-- Code 1: the word selects no row of the opcode map, or OP = 0xF (R120). -/
  | illegalCommand
  /-- Code 2: CMP_RUN with a threshold outside [-128, 128] (R121). -/
  | invalidThreshold
  /-- Code 3: ACC_INGEST at NUM_CHAR = 2^W - 1 (R122). -/
  | countOverflow
  deriving DecidableEq, Repr

/-- The response to one command (R10): RERR, 1 for a rejected command, and RDATA. -/
structure Response where
  rerr : Bool
  rdata : Word
  deriving DecidableEq, Repr

/-- What the host may do to the block (44_host_interface.md R109): present one command word, or
assert reset. The block never acts on its own. A word sent before the previous response or during
reset has no form here (93 U13, U14: refuse; log entry 6). -/
inductive HostAct where
  | command (word : Word)
  | reset
  deriving DecidableEq, Repr

/-- ASTATE, the accumulator state, computed and not stored (10_state.md R28). -/
inductive AState where
  | empty
  | accumulating
  | finalized
  deriving DecidableEq, Repr

/-- A 32-byte digest, DIGEST[0] first (R29); also a comparator operand (R31). -/
abbrev Digest := Vector Byte 32

/-- The architectural state of a block whose byte counter is `W` bits wide: the summary table of
10_state.md, which is the whole of it (R20). STATUS and ASTATE are views of it (R35, R28). -/
structure Block (W : Nat) where
  /-- W0 to W3, the window, W0 the most recent byte (R23). -/
  w0 : Byte
  w1 : Byte
  w2 : Byte
  w3 : Byte
  /-- WLEN, the window length, 0..4 (R24). -/
  wlen : BitVec 3
  /-- NUM_CHAR, the count of bytes ingested (R25). -/
  numChar : BitVec W
  /-- HIST, the 256 counters (R26). -/
  hist : Vector (BitVec (W + 3)) 256
  /-- FIN: DIGEST holds the digest of the bytes so far (R27). -/
  fin : Bool
  /-- DIGEST (R29); stale while FIN = 0. -/
  digest : Digest
  /-- CMPA and CMPB, the comparator's operands (R31). -/
  cmpA : Digest
  cmpB : Digest
  /-- SCORE, the last score (R32). -/
  score : Nine
  /-- EE, the early-exit flag (R33). -/
  ee : Bool
  /-- ERR, the sticky error flag, and ERRCODE, the first error's code (R34). -/
  err : Bool
  errCode : BitVec 4
  deriving DecidableEq, Repr

/-- The block with its two ports. `block` is the spec's state; `cfg`, `input` and `responses` are the
model's own fields (log entries 1, 2 and 3). -/
structure State where
  /-- The parameter W of this block (R14). No step changes it. -/
  cfg : Config
  /-- The block's architectural state (R20). -/
  block : Block cfg.W
  /-- The acts the host has yet to make, the next one first. It is host state (R22): each act is made
  once the response to the one before has been returned (R9, R109). -/
  input : List HostAct
  /-- The responses returned so far, the oldest first: the observation of R144. -/
  responses : List Response
  deriving DecidableEq, Repr

/-- Why the machine stops: it never does. R11: "No command word leaves the block stuck or without a
response", and a rejected command is a response and a next state (R124), so no step raises a fault and
the type has no constructor (safe: nothing is cut short). -/
inductive Fault where
  deriving DecidableEq, Repr

/-- Why an instruction has no meaning. -/
inductive Refusal where
  /-- An arm of `exec` that has no meaning yet, by mnemonic. No arm raises it now; it is safe, since a
  run that would meet it stops. -/
  | notModelled (mnemonic : String)
  deriving DecidableEq, Repr

/-- Every piece of the block's state at its reset value: the table of R137. -/
def Block.reset (W : Nat) : Block W where
  w0 := 0
  w1 := 0
  w2 := 0
  w3 := 0
  wlen := 0
  numChar := 0
  hist := Vector.replicate 256 0
  fin := false
  digest := Vector.replicate 32 0
  cmpA := Vector.replicate 32 0
  cmpB := Vector.replicate 32 0
  score := 0
  ee := false
  err := false
  errCode := 0

/-- The machine right after reset (R137, R138), with the standard parameter W = 32 (R14), no act of the
host pending and no response returned yet. -/
def State.reset : State where
  cfg := .standard
  block := .reset Config.standard.W
  input := []
  responses := []

end Sys2Proof.Machine
end

