-- ==== Sys2Proof/Machine/Tables.lean ====
section
/-!
DEFINITION. The constant tables TRAN and POPC (10_state.md R37 to R40), and the procedure of R38 that
generates TRAN. They are configuration, not state: no command writes them and reset does not change
them (00_scope.md R12).
-/

namespace Sys2Proof.Machine

/-- The 256 entries of TRAN, row by row as R37 prints them. PRESUMED by the spec itself: the values
are marked there as general knowledge (log entry 7). -/
def tranTable : List Byte :=
  [0x02, 0xD6, 0x9E, 0x6F, 0xF9, 0x1D, 0x04, 0xAB, 0xD0, 0x22, 0x16, 0x1F, 0xD8, 0x73, 0xA1, 0xAC] ++
  [0x3B, 0x70, 0x62, 0x96, 0x1E, 0x6E, 0x8F, 0x39, 0x9D, 0x05, 0x14, 0x4A, 0xA6, 0xBE, 0xAE, 0x0E] ++
  [0xCF, 0xB9, 0x9C, 0x9A, 0xC7, 0x68, 0x13, 0xE1, 0x2D, 0xA4, 0xEB, 0x51, 0x8D, 0x64, 0x6B, 0x50] ++
  [0x23, 0x80, 0x03, 0x41, 0xEC, 0xBB, 0x71, 0xCC, 0x7A, 0x86, 0x7F, 0x98, 0xF2, 0x36, 0x5E, 0xEE] ++
  [0x8E, 0xCE, 0x4F, 0xB8, 0x32, 0xB6, 0x5F, 0x59, 0xDC, 0x1B, 0x31, 0x4C, 0x7B, 0xF0, 0x63, 0x01] ++
  [0x6C, 0xBA, 0x07, 0xE8, 0x12, 0x77, 0x49, 0x3C, 0xDA, 0x46, 0xFE, 0x2F, 0x79, 0x1C, 0x9B, 0x30] ++
  [0xE3, 0x00, 0x06, 0x7E, 0x2E, 0x0F, 0x38, 0x33, 0x21, 0xAD, 0xA5, 0x54, 0xCA, 0xA7, 0x29, 0xFC] ++
  [0x5A, 0x47, 0x69, 0x7D, 0xC5, 0x95, 0xB5, 0xF4, 0x0B, 0x90, 0xA3, 0x81, 0x6D, 0x25, 0x55, 0x35] ++
  [0xF5, 0x75, 0x74, 0x0A, 0x26, 0xBF, 0x19, 0x5C, 0x1A, 0xC6, 0xFF, 0x99, 0x5D, 0x84, 0xAA, 0x66] ++
  [0x3E, 0xAF, 0x78, 0xB3, 0x20, 0x43, 0xC1, 0xED, 0x24, 0xEA, 0xE6, 0x3F, 0x18, 0xF3, 0xA0, 0x42] ++
  [0x57, 0x08, 0x53, 0x60, 0xC3, 0xC0, 0x83, 0x40, 0x82, 0xD7, 0x09, 0xBD, 0x44, 0x2A, 0x67, 0xA8] ++
  [0x93, 0xE0, 0xC2, 0x56, 0x9F, 0xD9, 0xDD, 0x85, 0x15, 0xB4, 0x8A, 0x27, 0x28, 0x92, 0x76, 0xDE] ++
  [0xEF, 0xF8, 0xB2, 0xB7, 0xC9, 0x3D, 0x45, 0x94, 0x4B, 0x11, 0x0D, 0x65, 0xD5, 0x34, 0x8B, 0x91] ++
  [0x0C, 0xFA, 0x87, 0xE9, 0x7C, 0x5B, 0xB1, 0x4D, 0xE5, 0xD4, 0xCB, 0x10, 0xA2, 0x17, 0x89, 0xBC] ++
  [0xDB, 0xB0, 0xE2, 0x97, 0x88, 0x52, 0xF7, 0x48, 0xD3, 0x61, 0x2C, 0x3A, 0x2B, 0xD1, 0x8C, 0xFB] ++
  [0xF1, 0xCD, 0xE4, 0x6A, 0xE7, 0xA9, 0xFD, 0xC4, 0x37, 0xC8, 0xD2, 0xF6, 0xDF, 0x58, 0x72, 0x4E]

/-- `TRAN[i]` (R37). Indices are 8 bits, so none is out of range (R44). -/
def tran (i : Byte) : Byte := tranTable.getD i.toNat 0

/-- The 256 entries of POPC, row by row as R39 prints them. -/
def popcTable : List (BitVec 4) :=
  [0, 1, 1, 2, 1, 2, 2, 3, 1, 2, 2, 3, 2, 3, 3, 4] ++
  [1, 2, 2, 3, 2, 3, 3, 4, 2, 3, 3, 4, 3, 4, 4, 5] ++
  [1, 2, 2, 3, 2, 3, 3, 4, 2, 3, 3, 4, 3, 4, 4, 5] ++
  [2, 3, 3, 4, 3, 4, 4, 5, 3, 4, 4, 5, 4, 5, 5, 6] ++
  [1, 2, 2, 3, 2, 3, 3, 4, 2, 3, 3, 4, 3, 4, 4, 5] ++
  [2, 3, 3, 4, 3, 4, 4, 5, 3, 4, 4, 5, 4, 5, 5, 6] ++
  [2, 3, 3, 4, 3, 4, 4, 5, 3, 4, 4, 5, 4, 5, 5, 6] ++
  [3, 4, 4, 5, 4, 5, 5, 6, 4, 5, 5, 6, 5, 6, 6, 7] ++
  [1, 2, 2, 3, 2, 3, 3, 4, 2, 3, 3, 4, 3, 4, 4, 5] ++
  [2, 3, 3, 4, 3, 4, 4, 5, 3, 4, 4, 5, 4, 5, 5, 6] ++
  [2, 3, 3, 4, 3, 4, 4, 5, 3, 4, 4, 5, 4, 5, 5, 6] ++
  [3, 4, 4, 5, 4, 5, 5, 6, 4, 5, 5, 6, 5, 6, 6, 7] ++
  [2, 3, 3, 4, 3, 4, 4, 5, 3, 4, 4, 5, 4, 5, 5, 6] ++
  [3, 4, 4, 5, 4, 5, 5, 6, 4, 5, 5, 6, 5, 6, 6, 7] ++
  [3, 4, 4, 5, 4, 5, 5, 6, 4, 5, 5, 6, 5, 6, 6, 7] ++
  [4, 5, 5, 6, 5, 6, 6, 7, 5, 6, 6, 7, 6, 7, 7, 8]

/-- `POPC[x]` (R39). -/
def popc (x : Byte) : BitVec 4 := popcTable.getD x.toNat 0

/-- The inner loop of R38. `rest` holds the entries `TRAN[k]`, ..., `TRAN[i - 1]` of `found` still to
be compared; on a collision `j` becomes `(j + 1) & 0xFF` and the search starts again at `k = 1`. `fuel`
bounds the number of comparisons. -/
def tranProbe (found : List Nat) : Nat → List Nat → Nat → Nat
  | 0, _, j => j
  | _ + 1, [], j => j
  | fuel + 1, t :: rest, j =>
    if j = t then tranProbe found fuel found.tail ((j + 1) % 256)
    else tranProbe found fuel rest j

/-- `j <- (j * 53 + 1) & 0xFF; j <- j + j; if j > 255: j <- j - 255` (R38). -/
def tranNext (j : Nat) : Nat :=
  let twice := 2 * ((j * 53 + 1) % 256)
  if twice > 255 then twice - 255 else twice

/-- One round of R38's outer loop, on `j` and the entries found so far. -/
def tranRound (p : Nat × List Nat) : Nat × List Nat :=
  let j := tranProbe p.2 8192 p.2 (tranNext p.1)
  (j, p.2 ++ [j])

/-- `n` rounds of R38's outer loop. -/
def tranRounds : Nat → Nat × List Nat → Nat × List Nat
  | 0, p => p
  | n + 1, p => tranRounds n (tranRound p)

/-- The table R38's procedure fills: 256 rounds from `j = 0` and an empty table. -/
def tranGenerated : List Byte := (tranRounds 256 (0, [])).2.map (BitVec.ofNat 8)

end Sys2Proof.Machine
end

