-- ==== Sys2Proof/Machine/Datapath.lean ====
section
/-!
DEFINITION. The pure functions of the datapath (40_datapath.md): the trigram hash and its slot table,
the triplet count, the digitizer, and the comparator's distance and early exit. Counts and thresholds
are mathematical integers (R17), so nothing wraps on the way.
-/

namespace Sys2Proof.Machine

/-- `tran3(a, b, c, n)` (R74), on bytes, so all arithmetic is modulo 256. -/
def tran3 (a b c : Byte) (n : Fin 8) : Byte :=
  let slot : Byte := BitVec.ofNat 8 n.val
  let x := tran (a + slot)
  let y := tran b * (2 * slot + 1)
  let z := tran (c ^^^ tran slot)
  (x ^^^ y) + z

/-- The eight slots of R75 for a byte `c` and a window, in slot order: the WLEN each needs and the
bucket it selects. -/
def slotTable (w0 w1 w2 w3 c : Byte) : List (Nat × Byte) :=
  [ (2, tran3 c w0 w1 0),
    (3, tran3 c w0 w2 1),
    (3, tran3 c w1 w2 2),
    (4, tran3 c w0 w3 3),
    (4, tran3 c w1 w3 4),
    (4, tran3 c w2 w3 5),
    (4, tran3 w3 w0 c 6),
    (4, tran3 w3 w2 c 7) ]

/-- The buckets of the slots that are active at window length `len` (R75). -/
def activeBuckets (len : Nat) (w0 w1 w2 w3 c : Byte) : List Byte :=
  ((slotTable w0 w1 w2 w3 c).filter fun slot => slot.1 ≤ len).map Prod.snd

/-- `triplet_count(N)` (R76). -/
def tripletCount (n : Nat) : Nat :=
  if n < 3 then 0
  else if n = 3 then 1
  else if n = 4 then 4
  else 8 * n - 28

/-- A counter is over the digitization threshold: the exact integer form of R77, strictly greater. -/
def overThreshold (count triplets : Nat) : Bool := 256 * count > triplets

/-- The byte of the digest that bucket `i` lies in (R45). -/
def digestByteOf (i : Nat) : Nat := 31 - i / 8

/-- Sets the digest bit of bucket `i`: bit `i mod 8` of byte `31 - (i div 8)` (R45). -/
def setDigestBit (d : Digest) (i : Nat) : Digest :=
  d.set (digestByteOf i) (d[digestByteOf i]'(by unfold digestByteOf; omega) ||| (1#8 <<< (i % 8)))
    (by unfold digestByteOf; omega)

/-- `digitize(HIST, N)` (R79): the loop over the buckets, each counter with its index. -/
def digitize {w : Nat} (hist : Vector (BitVec w) 256) (n : Nat) : Digest :=
  hist.toList.zipIdx.foldl
    (fun d bucket =>
      if overThreshold bucket.1.toNat (tripletCount n) then setDigestBit d bucket.2 else d)
    (Vector.replicate 32 0)

/-- `dist(A, B)` (R81): the sum of `POPC[A[k] XOR B[k]]` over the 32 byte positions. -/
def distance (a b : Digest) : Nat :=
  (List.zipWith (fun x y => (popc (x ^^^ y)).toNat) a.toList b.toList).sum

/-- `score(A, B) = 128 - dist(A, B)` (R82). -/
def exactScore (d : Nat) : Int := 128 - d

/-- `early(d, TE, T)` (R83): the result and whether the early exit was taken. `none` is TE = 0, no
threshold (R68). -/
def early (d : Nat) : Option Int → Int × Bool
  | none => (exactScore d, false)
  | some t => if (d : Int) > 128 - t then (t - 1, true) else (exactScore d, false)

end Sys2Proof.Machine
end

