-- ==== Sys2Proof/Machine/Operands.lean ====
section
/-!
DEFINITION. The operand forms of 30_encoding.md section 2 as the commands use them: a digest byte
named by IDX, an operand register named by SEL, and the threshold that THR means; and the widenings of
R16 that put a value into RDATA.
-/

namespace Sys2Proof.Machine

/-- The byte IDX names (R43, R66): every index is valid. -/
def readByte (d : Digest) (k : DigestIdx) : Byte := d[k.toNat]'k.isLt

/-- The digest with the byte IDX names replaced (R43, R66). -/
def writeByte (d : Digest) (k : DigestIdx) (v : Byte) : Digest := d.set k.toNat v k.isLt

/-- The operand register SEL names (R67). -/
def Block.operand {W : Nat} (b : Block W) : OperandReg → Digest
  | .cmpA => b.cmpA
  | .cmpB => b.cmpB

/-- `T = signed_9(THR)` (R68). -/
def thresholdOf (thr : Nine) : Int := thr.toInt

/-- "Only `-128 ≤ T ≤ 128` is legal" (R68). -/
def thresholdLegal (t : Int) : Bool := -128 ≤ t && t ≤ 128

/-- `zext_32` of a value at most 32 bits wide (R16). -/
def zext32 {n : Nat} (v : BitVec n) : Word := v.setWidth 32

/-- `sext_32` of a two's-complement value (R16). -/
def sext32 {n : Nat} (v : BitVec n) : Word := v.signExtend 32

/-- A score as the 9-bit two's-complement pattern SCORE holds (R15, R32). -/
def scoreBits (r : Int) : Nine := BitVec.ofInt 9 r

end Sys2Proof.Machine
end

