-- ==== Sys2Proof/Machine/Flags.lean ====
section
/-!
DEFINITION. The status and error flags: the codes of 60_exceptions.md R119, the accumulator state
(10_state.md R28), the STATUS word (R35, R106), and how ERR and ERRCODE are recorded and cleared
(R34, R124, R107).
-/

namespace Sys2Proof.Machine

/-- The number of an error code (R119). -/
def ErrorCode.code : ErrorCode → BitVec 4
  | .illegalCommand => 1
  | .invalidThreshold => 2
  | .countOverflow => 3

/-- ASTATE (R28): Finalized if FIN, else Empty if NUM_CHAR = 0, else Accumulating. -/
def Block.astate {W : Nat} (b : Block W) : AState :=
  if b.fin then .finalized else if b.numChar = 0 then .empty else .accumulating

/-- The encoding of ASTATE in STATUS[1:0] (R28, R35). -/
def AState.bits : AState → BitVec 2
  | .empty => 0
  | .accumulating => 1
  | .finalized => 2

/-- A flag as the bit it is read as. -/
def flagBit (f : Bool) : BitVec 1 := BitVec.ofBool f

/-- The STATUS word (R35), as R106 assembles it:
`{ 13'b0, WLEN, 4'b0, ERRCODE, 3'b0, ERR, 1'b0, EE, ASTATE }`. -/
def Block.statusWord {W : Nat} (b : Block W) : Word :=
  0#13 ++ b.wlen ++ 0#4 ++ b.errCode ++ 0#3 ++ flagBit b.err ++ 0#1 ++ flagBit b.ee ++ b.astate.bits

/-- What a rejected command does to the error record (R124): ERRCODE keeps the first error since the
last clear, ERR is set. -/
def Block.recordError {W : Nat} (b : Block W) (e : ErrorCode) : Block W :=
  { b with errCode := if b.err then b.errCode else e.code, err := true }

/-- ST_CLEAR's effect on the error record (R107). -/
def Block.clearError {W : Nat} (b : Block W) : Block W :=
  { b with err := false, errCode := 0 }

end Sys2Proof.Machine
end

