-- ==== Sys2Proof/Machine/Ops.lean ====
section
/-!
DEFINITION. The operations the commands share: the accumulator's (clear, one byte in, finalize), the
comparator's (write an operand byte, copy a digest, compare), the two ways a command ends (respond,
raise; 00_scope.md R19), and how the host's next act is taken and a reset or an illegal word answered.
The block has no traps (60_exceptions.md R126): a rejection is the shared "exception" of this machine.
-/

namespace Sys2Proof.Machine

/-- One histogram increment (R86): `HIST[i] += 1`, in a register of fixed width. -/
def bumpBucket {w : Nat} (hist : Vector (BitVec w) 256) (i : Byte) : Vector (BitVec w) 256 :=
  hist.set i.toNat (hist[i.toNat]'i.isLt + 1) i.isLt

/-- Increments one bucket after the other; each adds 1, so a bucket selected twice grows by 2 (R88). -/
def bumpBuckets {w : Nat} (hist : Vector (BitVec w) 256) (is : List Byte) : Vector (BitVec w) 256 :=
  is.foldl bumpBucket hist

/-- ACC_CLEAR's effect (R85): window, counts, histogram, FIN and DIGEST to 0; the comparator and the
error record keep their values. -/
def Block.clearAccumulator {W : Nat} (b : Block W) : Block W :=
  { b with
    w0 := 0, w1 := 0, w2 := 0, w3 := 0, wlen := 0, numChar := 0
    hist := Vector.replicate 256 0, fin := false, digest := Vector.replicate 32 0 }

/-- ACC_INGEST's overflow test (R89): `NUM_CHAR == 2^W - 1`. -/
def Block.countFull {W : Nat} (b : Block W) : Bool := b.numChar.toNat == 2 ^ W - 1

/-- The buckets that ingesting `c` increments, from the window before the shift (R75). -/
def Block.bucketsFor {W : Nat} (b : Block W) (c : Byte) : List Byte :=
  activeBuckets b.wlen.toNat b.w0 b.w1 b.w2 b.w3 c

/-- `min(L + 1, 4)` for the window length (R24, R86). -/
def growWindow (wlen : BitVec 3) : BitVec 3 := BitVec.ofNat 3 (min (wlen.toNat + 1) 4)

/-- Steps 1 to 5 of ACC_INGEST (R86), with the unconditional shift of R87; FIN is cleared (conflict
C1, R91). DIGEST keeps its bytes, which are stale from here on (R29). -/
def Block.ingest {W : Nat} (b : Block W) (c : Byte) : Block W :=
  { b with
    numChar := b.numChar + 1
    hist := bumpBuckets b.hist (b.bucketsFor c)
    w0 := c, w1 := b.w0, w2 := b.w1, w3 := b.w2
    wlen := growWindow b.wlen
    fin := false }

/-- `finalize` (R80): computes DIGEST and sets FIN, unless FIN is already set. -/
def Block.finalize {W : Nat} (b : Block W) : Block W :=
  if b.fin then b else { b with digest := digitize b.hist b.numChar.toNat, fin := true }

/-- Writes one byte of CMPA (R96). -/
def Block.loadA {W : Nat} (b : Block W) (k : DigestIdx) (v : Byte) : Block W :=
  { b with cmpA := writeByte b.cmpA k v }

/-- Writes one byte of CMPB (R97). -/
def Block.loadB {W : Nat} (b : Block W) (k : DigestIdx) (v : Byte) : Block W :=
  { b with cmpB := writeByte b.cmpB k v }

/-- Copies the digest, finalized first, to CMPA (R98). -/
def Block.copyA {W : Nat} (b : Block W) : Block W :=
  { b.finalize with cmpA := b.finalize.digest }

/-- Copies the digest, finalized first, to CMPB (R99). -/
def Block.copyB {W : Nat} (b : Block W) : Block W :=
  { b.finalize with cmpB := b.finalize.digest }

/-- The result of comparing CMPA with CMPB and whether the early exit was taken (R100); `none` is no
threshold. -/
def Block.compareResult {W : Nat} (b : Block W) (t : Option Int) : Int × Bool :=
  early (distance b.cmpA b.cmpB) t

/-- CMP_RUN's effect (R100): SCORE and EE, nothing else (R102). -/
def Block.compare {W : Nat} (b : Block W) (t : Option Int) : Block W :=
  { b with score := scoreBits (b.compareResult t).1, ee := (b.compareResult t).2 }

/-- `respond(v)` (R19): the response of a command that completes. -/
def Response.ok (v : Word) : Response := ⟨false, v⟩

/-- `respond_error(e)` (R124): RERR = 1 and the code, zero-extended. -/
def Response.error (e : ErrorCode) : Response := ⟨true, zext32 e.code⟩

/-- The state after a command: the block's new state and one response more (R9). -/
def State.put (s : State) (b : Block s.cfg.W) (r : Response) : State :=
  { s with block := b, responses := s.responses ++ [r] }

/-- A command that completes with the block in state `b` and RDATA `v` (R19). -/
def State.respond (s : State) (b : Block s.cfg.W) (v : Word) : Host.Outcome State Fault Refusal :=
  .next (s.put b (.ok v))

/-- `raise e` (R19): a command rejected with error `e`, as R124 says. -/
def State.raise (s : State) (e : ErrorCode) : Host.Outcome State Fault Refusal :=
  .next (s.put (s.block.recordError e) (.error e))

/-- The host's next act, and the state in which it has been made. -/
def State.takeAct (s : State) : Option (HostAct × State) :=
  match s.input with
  | [] => none
  | a :: rest => some (a, { s with input := rest })

/-- No act is pending: the block waits and holds its state (R136, R138; log entry 4). -/
def State.wait (s : State) : Host.Outcome State Fault Refusal := .next s

/-- The host asserts reset between commands: every piece of the block's state takes its reset value
(R137). Reset returns no response (R109), and the parameter W, the acts still to come and the
responses already returned are not block state (log entry 5). -/
def State.assertReset (s : State) : Host.Outcome State Fault Refusal :=
  .next { s with block := .reset s.cfg.W }

/-- The error a word that selects no row is rejected with (R120): both checks of R70 report
ILLEGAL_COMMAND. -/
def errorOfDecode : DecodeError → ErrorCode
  | .reservedBit => .illegalCommand
  | .thresholdNotEnabled => .illegalCommand

/-- A word the decoder refuses: rejected as R124 says. -/
def State.rejectWord (s : State) (e : DecodeError) : Host.Outcome State Fault Refusal :=
  s.raise (errorOfDecode e)

/-- The word `w` put where the next step takes its command from. -/
def State.presentNext (s : State) (w : Word) : State :=
  { s with input := .command w :: s.input }

end Sys2Proof.Machine
end

