-- ==== Sys2Proof/Machine/Accumulator.lean ====
section
/-!
DEFINITION. The accumulator commands (41_accumulator.md R85 to R95).
-/

namespace Sys2Proof.Machine

/-- ACC_CLEAR (R85). -/
def execAccClear (s : State) : Host.Outcome State Fault Refusal :=
  s.respond s.block.clearAccumulator 0

/-- ACC_INGEST (R86): COUNT_OVERFLOW when the count is full (R89), else one byte in. -/
def execAccIngest (c : Byte) (s : State) : Host.Outcome State Fault Refusal :=
  if s.block.countFull then s.raise .countOverflow else s.respond (s.block.ingest c) 0

/-- ACC_FINALIZE (R93). -/
def execAccFinalize (s : State) : Host.Outcome State Fault Refusal :=
  s.respond s.block.finalize 0

/-- ACC_RDDIG (R94): finalizes first, then responds with one digest byte. -/
def execAccRddig (k : DigestIdx) (s : State) : Host.Outcome State Fault Refusal :=
  s.respond s.block.finalize (zext32 (readByte s.block.finalize.digest k))

/-- ACC_RDCNT (R95). -/
def execAccRdcnt (s : State) : Host.Outcome State Fault Refusal :=
  s.respond s.block (zext32 s.block.numChar)

end Sys2Proof.Machine
end

