-- ==== Sys2Proof/Machine/Comparator.lean ====
section
/-!
DEFINITION. The comparator commands (42_comparator.md R96 to R104).
-/

namespace Sys2Proof.Machine

/-- CMP_LDA (R96). -/
def execCmpLda (k : DigestIdx) (v : Byte) (s : State) : Host.Outcome State Fault Refusal :=
  s.respond (s.block.loadA k v) 0

/-- CMP_LDB (R97). -/
def execCmpLdb (k : DigestIdx) (v : Byte) (s : State) : Host.Outcome State Fault Refusal :=
  s.respond (s.block.loadB k v) 0

/-- CMP_CPYA (R98). -/
def execCmpCpya (s : State) : Host.Outcome State Fault Refusal :=
  s.respond s.block.copyA 0

/-- CMP_CPYB (R99). -/
def execCmpCpyb (s : State) : Host.Outcome State Fault Refusal :=
  s.respond s.block.copyB 0

/-- CMP_RUN with TE = 0 (R100): the exact score. -/
def execCmpRun (s : State) : Host.Outcome State Fault Refusal :=
  s.respond (s.block.compare none) (sext32 (scoreBits (s.block.compareResult none).1))

/-- CMP_RUN with TE = 1 (R100): INVALID_THRESHOLD for an illegal T (R121), else the score with the
early exit of R83. -/
def execCmpRunThr (thr : Nine) (s : State) : Host.Outcome State Fault Refusal :=
  if thresholdLegal (thresholdOf thr) then
    s.respond (s.block.compare (some (thresholdOf thr)))
      (sext32 (scoreBits (s.block.compareResult (some (thresholdOf thr))).1))
  else s.raise .invalidThreshold

/-- CMP_RDOP (R103). -/
def execCmpRdop (sel : OperandReg) (k : DigestIdx) (s : State) : Host.Outcome State Fault Refusal :=
  s.respond s.block (zext32 (readByte (s.block.operand sel) k))

/-- RD_SCORE (R104). -/
def execRdScore (s : State) : Host.Outcome State Fault Refusal :=
  s.respond s.block (sext32 s.block.score)

end Sys2Proof.Machine
end

