-- ==== Sys2Proof/Machine/Control.lean ====
section
/-!
DEFINITION. The control and status commands (43_control.md R105 to R108).
-/

namespace Sys2Proof.Machine

/-- NOP (R105). -/
def execNop (s : State) : Host.Outcome State Fault Refusal :=
  s.respond s.block 0

/-- RD_STATUS (R106). -/
def execRdStatus (s : State) : Host.Outcome State Fault Refusal :=
  s.respond s.block s.block.statusWord

/-- ST_CLEAR (R107). -/
def execStClear (s : State) : Host.Outcome State Fault Refusal :=
  s.respond s.block.clearError 0

/-- The reserved opcode 0xF (R108): rejected with ILLEGAL_COMMAND, whatever its other 28 bits. -/
def execReservedF (_rest : BitVec 28) (s : State) : Host.Outcome State Fault Refusal :=
  s.raise .illegalCommand

end Sys2Proof.Machine
end

