-- ==== Sys2Proof/Machine/Dispatch.lean ====
section
/-!
DEFINITION. One arm per command, in the opcode map's order (30_encoding.md R69).
-/

namespace Sys2Proof.Machine

def exec (i : Instr) (s : State) : Host.Outcome State Fault Refusal :=
  match i with
  | .nop => Sys2Proof.Machine.execNop s
  | .accClear => Sys2Proof.Machine.execAccClear s
  | .accIngest c => Sys2Proof.Machine.execAccIngest c s
  | .accFinalize => Sys2Proof.Machine.execAccFinalize s
  | .accRddig k => Sys2Proof.Machine.execAccRddig k s
  | .accRdcnt => Sys2Proof.Machine.execAccRdcnt s
  | .cmpLda k v => Sys2Proof.Machine.execCmpLda k v s
  | .cmpLdb k v => Sys2Proof.Machine.execCmpLdb k v s
  | .cmpCpya => Sys2Proof.Machine.execCmpCpya s
  | .cmpCpyb => Sys2Proof.Machine.execCmpCpyb s
  | .cmpRun => Sys2Proof.Machine.execCmpRun s
  | .cmpRunThr thr => Sys2Proof.Machine.execCmpRunThr thr s
  | .rdStatus => Sys2Proof.Machine.execRdStatus s
  | .stClear => Sys2Proof.Machine.execStClear s
  | .cmpRdop sel k => Sys2Proof.Machine.execCmpRdop sel k s
  | .rdScore => Sys2Proof.Machine.execRdScore s
  | .reservedF rest => Sys2Proof.Machine.execReservedF rest s

end Sys2Proof.Machine
end

