-- ==== Sys2Proof/Machine/Step.lean ====
section
/-!
DEFINITION. One step of the machine (00_scope.md R9): the host's next act. A command word is decoded
and executed, or rejected (R11); a reset is obeyed (70_reset_and_hazards.md R137); with no act pending
the block waits (R138).
-/

namespace Sys2Proof.Machine

/-- One act of the host, completely and atomically (R9, 20_memory.md R52). -/
def step (s : State) : Host.Outcome State Fault Refusal :=
  match s.takeAct with
  | none => s.wait
  | some (.reset, s') => s'.assertReset
  | some (.command w, s') =>
    match decode w with
    | .ok i => exec i s'
    | .error e => s'.rejectWord e

/-- `s` with the instruction whose table bits are `w` as the host's next command (log entry 1). -/
def State.withFetchWord (s : State) (nbits w : Nat) : State :=
  s.presentNext (tableWord nbits w)

end Sys2Proof.Machine
end

