-- ==== Sys2Proof/Machine/HostDriver.lean ====
section
/-!
DEFINITION. The host side that 44_host_interface.md specifies around the block (00_scope.md R7): the
source's API as sequences of commands (R110 to R116), with the checks and conversions the host makes
(text to UTF-8, digest to hex text and back, host error kinds, R117), and the pseudo-instructions of
30_encoding.md R73. The block's step uses nothing of this file: it binds a host driver, not the block.
-/

namespace Sys2Proof.Machine

/-- The host's own error kinds (R117). InvalidThreshold may also be raised by the host, if it checks
the range itself (R116). -/
inductive HostError where
  | invalidInputType
  | invalidDigestFormat
  | invalidThreshold
  deriving DecidableEq, Repr

/-- The UTF-8 bytes of one character (R110). PRESUMED: UTF-8 in its standard meaning (log entry 13). -/
def utf8Char (c : Char) : List Byte :=
  let v := c.toNat
  let cont (shift : Nat) : Byte := BitVec.ofNat 8 (0x80 + v / 2 ^ shift % 64)
  if v < 0x80 then [BitVec.ofNat 8 v]
  else if v < 0x800 then [BitVec.ofNat 8 (0xC0 + v / 2 ^ 6), cont 0]
  else if v < 0x10000 then [BitVec.ofNat 8 (0xE0 + v / 2 ^ 12), cont 6, cont 0]
  else [BitVec.ofNat 8 (0xF0 + v / 2 ^ 18), cont 12, cont 6, cont 0]

/-- Text as the bytes the host ingests (R110). -/
def utf8 (text : List Char) : List Byte := text.flatMap utf8Char

/-- What a caller may hand to `ingest` (R110, R111): bytes, text, or something that is neither. -/
inductive Chunk where
  | bytes (bs : List Byte)
  | text (cs : List Char)
  | other
  deriving DecidableEq, Repr

/-- `ingest(bytes)`: one ACC_INGEST per byte, in order (R112). -/
def ingestBytes (bs : List Byte) : List Instr := bs.map .accIngest

/-- The bytes of a chunk, or InvalidInputType, raised before any command is issued for it (R111). -/
def Chunk.toBytes : Chunk → Except HostError (List Byte)
  | .bytes bs => .ok bs
  | .text cs => .ok (utf8 cs)
  | .other => .error .invalidInputType

/-- Ingesting chunk after chunk (R112): the commands issued and, if a bad chunk stopped it, the error.
The chunks before the bad one stay ingested (R111). -/
def ingestChunks : List Chunk → List Instr × Option HostError
  | [] => ([], none)
  | c :: cs =>
    match c.toBytes with
    | .ok bs => (ingestBytes bs ++ (ingestChunks cs).1, (ingestChunks cs).2)
    | .error e => ([], some e)

/-- Construction from a sequence of buffers: ACC_CLEAR, then their bytes in order (R112, R85). -/
def construct (buffers : List Chunk) : List Instr × Option HostError :=
  (.accClear :: (ingestChunks buffers).1, (ingestChunks buffers).2)

/-- `digest()`: ACC_RDDIG 0 .. ACC_RDDIG 31 (R113). -/
def readDigest : List Instr := (List.range 32).map fun k => .accRddig (BitVec.ofNat 5 k)

/-- The host error kind a block error code stands for (R117); the others have no counterpart. -/
def hostErrorOf : ErrorCode → Option HostError
  | .illegalCommand => none
  | .invalidThreshold => some .invalidThreshold
  | .countOverflow => none

/-- The error code in RDATA of a rejected command's response (R119). -/
def errorCodeOf (rdata : Word) : Option ErrorCode :=
  if rdata = 1 then some .illegalCommand
  else if rdata = 2 then some .invalidThreshold
  else if rdata = 3 then some .countOverflow
  else none

/-- What a driver reports when a response it reads is a rejection (R109, R117): the host error kind
where the code has one, else the code itself (DESIGN CHOICE, log entry 22). -/
inductive ReadError where
  | kind (e : HostError)
  | rejected (code : Word)
  deriving DecidableEq, Repr

/-- The report for a rejection's RDATA (R117). -/
def readErrorOf (rdata : Word) : ReadError :=
  match (errorCodeOf rdata).bind hostErrorOf with
  | some e => .kind e
  | none => .rejected rdata

/-- RDATA of a response, which the host must not use before it has checked RERR (R109). -/
def checkedRdata (r : Response) : Except ReadError Word :=
  if r.rerr then .error (readErrorOf r.rdata) else .ok r.rdata

/-- The digest from the responses to its read-out: byte k is RDATA[7:0] of the k-th (R113), each
checked first (R109). The first rejected one decides the error. -/
def digestOfResponses : List Response → Except ReadError (List Byte)
  | [] => .ok []
  | r :: rs =>
    match checkedRdata r, digestOfResponses rs with
    | .ok v, .ok bs => .ok (v.setWidth 8 :: bs)
    | .error e, _ => .error e
    | .ok _, .error e => .error e

/-- A hex digit, lowercase (R114). -/
def hexDigit (v : BitVec 4) : Char :=
  ['0', '1', '2', '3', '4', '5', '6', '7', '8', '9', 'a', 'b', 'c', 'd', 'e', 'f'].getD v.toNat '0'

/-- A byte as two hex digits, the most-significant nibble first (R114). -/
def hexByte (v : Byte) : List Char := [hexDigit (v.extractLsb' 4 4), hexDigit (v.extractLsb' 0 4)]

/-- `hex_digest()`: 64 lowercase hex digits, DIGEST[0] first (R114, R48). -/
def hexDigest (d : Digest) : List Char := d.toList.flatMap hexByte

/-- The value of a hex digit, either case (R115). -/
def hexValue (c : Char) : Option (BitVec 4) :=
  let v := c.toNat
  if 48 ≤ v ∧ v ≤ 57 then some (BitVec.ofNat 4 (v - 48))
  else if 97 ≤ v ∧ v ≤ 102 then some (BitVec.ofNat 4 (v - 87))
  else if 65 ≤ v ∧ v ≤ 70 then some (BitVec.ofNat 4 (v - 55))
  else none

/-- Characters parsed two at a time as base-16 byte values, the first the most-significant nibble
(R115). -/
def hexPairs : List Char → Option (List Byte)
  | [] => some []
  | [_] => none
  | hi :: lo :: rest =>
    match hexValue hi, hexValue lo, hexPairs rest with
    | some h, some l, some bs => some ((h ++ l) :: bs)
    | _, _, _ => none

/-- A list of bytes as a digest; "not exactly 32 entries" is InvalidDigestFormat (R115). -/
def digestOfList (bs : List Byte) : Except HostError Digest :=
  if h : bs.length = 32 then .ok ⟨bs.toArray, by simpa using h⟩ else .error .invalidDigestFormat

/-- The host's hex parser (R115): exactly 64 hex characters, either case. -/
def parseHexDigest (cs : List Char) : Except HostError Digest :=
  match hexPairs cs with
  | some bs => digestOfList bs
  | none => .error .invalidDigestFormat

/-- A raw digest: exactly 32 entries, each in 0..255 (R115). -/
def parseRawDigest (ns : List Int) : Except HostError Digest :=
  if ns.all fun n => decide (0 ≤ n) && decide (n ≤ 255) then digestOfList (ns.map (BitVec.ofInt 8))
  else .error .invalidDigestFormat

/-- A digest handed to `compare` (R116): hex text, raw integers, or the accumulator's current digest,
which is copied instead of loaded. -/
inductive DigestArg where
  | hex (cs : List Char)
  | raw (ns : List Int)
  | current
  deriving DecidableEq, Repr

/-- CMP_LDA 0, d0 .. CMP_LDA 31, d31 (R73). -/
def loadDigestA (d : Digest) : List Instr :=
  d.toList.zipIdx.map fun p => .cmpLda (BitVec.ofNat 5 p.2) p.1

/-- CMP_LDB 0, d0 .. CMP_LDB 31, d31 (R73). -/
def loadDigestB (d : Digest) : List Instr :=
  d.toList.zipIdx.map fun p => .cmpLdb (BitVec.ofNat 5 p.2) p.1

/-- The commands that bring a digest into CMPA (R116). -/
def DigestArg.toA : DigestArg → Except HostError (List Instr)
  | .hex cs => (parseHexDigest cs).map loadDigestA
  | .raw ns => (parseRawDigest ns).map loadDigestA
  | .current => .ok [.cmpCpya]

/-- The commands that bring a digest into CMPB (R116). -/
def DigestArg.toB : DigestArg → Except HostError (List Instr)
  | .hex cs => (parseHexDigest cs).map loadDigestB
  | .raw ns => (parseRawDigest ns).map loadDigestB
  | .current => .ok [.cmpCpyb]

/-- The CMP_RUN of a threshold (R116, R68). `checks`: the host checks the range itself. A threshold
that 9 bits cannot hold is refused even by a host that does not check (DESIGN CHOICE, log entry 15). -/
def runCommand (checks : Bool) : Option Int → Except HostError Instr
  | none => .ok .cmpRun
  | some t =>
    if (checks && !thresholdLegal t) || t < -256 || 255 < t then .error .invalidThreshold
    else .ok (.cmpRunThr (BitVec.ofInt 9 t))

/-- `compare(digestA, digestB, threshold)` (R116): load A, load B, CMP_RUN. For a malformed digest no
command is issued (R115). For a threshold the host refuses, R116 says only that CMP_RUN is not issued;
that the loads are not issued either is a DESIGN CHOICE (log entry 21), as is which of several errors
is reported (log entry 15). -/
def compareCommands (a b : DigestArg) (t : Option Int) (checks : Bool) :
    Except HostError (List Instr) :=
  match a.toA, b.toB, runCommand checks t with
  | .ok la, .ok lb, .ok run => .ok (la ++ lb ++ [run])
  | .error e, _, _ => .error e
  | _, .error e, _ => .error e
  | _, _, .error e => .error e

/-- The comparator's result as the host reads it: "the sign-extended RDATA" (R116), once RERR is
checked (R109); a rejected CMP_RUN is InvalidThreshold (R117). -/
def compareValue (r : Response) : Except ReadError Int := (checkedRdata r).map BitVec.toInt

/-- The pseudo-instructions (R73). -/
inductive Pseudo where
  | accNew
  | accIngestb (bs : List Byte)
  | accIngests (text : List Char)
  | accRddigest
  | hash (text : List Char)
  | cmpLda32 (d : Digest)
  | cmpLdb32 (d : Digest)
  | cmpRdops (sel : OperandReg)
  deriving DecidableEq, Repr

/-- The expansion of a pseudo-instruction into commands (R73); each is a step of its own. -/
def Pseudo.expand : Pseudo → List Instr
  | .accNew => [.accClear]
  | .accIngestb bs => ingestBytes bs
  | .accIngests text => ingestBytes (utf8 text)
  | .accRddigest => readDigest
  | .hash text => [.accClear] ++ ingestBytes (utf8 text) ++ [.accFinalize]
  | .cmpLda32 d => loadDigestA d
  | .cmpLdb32 d => loadDigestB d
  | .cmpRdops sel => (List.range 32).map fun k => .cmpRdop sel (BitVec.ofNat 5 k)

/-- Commands as the host's acts (R109): one word each, in order. -/
def actsOf (is : List Instr) : List HostAct := is.map fun i => .command (encode i)

end Sys2Proof.Machine
end

