-- ==== Sys2Proof/Machine/Assembler.lean ====
section
/-!
DEFINITION. The assembly syntax of 30_encoding.md R72: one command per line, the mnemonic, its
operands separated by commas, then an optional comment. Host-side: the block's step uses nothing of
it. What R72 does not say of spaces and letter case is fixed by log entry 14.
-/

namespace Sys2Proof.Machine

/-- An operand as written: a number (decimal or hex), a character literal, which only a byte operand may
be, or a bare name (R72). -/
inductive AsmOperand where
  | num (v : Int)
  | char (code : Nat)
  | name (s : List Char)
  deriving DecidableEq, Repr

/-- The characters of a byte literal's quotes, of a comment's start and of the operand separator. -/
def quoteChar : Char := Char.ofNat 39
def commentChar : Char := Char.ofNat 59
def commaChar : Char := Char.ofNat 44

/-- A blank: space or tab. -/
def isBlank (c : Char) : Bool := c.toNat == 32 || c.toNat == 9

/-- Drops blanks at both ends. -/
def trimBlanks (cs : List Char) : List Char :=
  ((cs.dropWhile isBlank).reverse.dropWhile isBlank).reverse

/-- A character list cut at each comma, a comment dropped. The first argument counts the characters
to take as they are (a character literal's own character and its closing quote), the second collects
the current piece, reversed. -/
def splitOperands : Nat → List Char → List Char → List (List Char)
  | _, acc, [] => [acc.reverse]
  | n + 1, acc, c :: rest => splitOperands n (c :: acc) rest
  | 0, acc, c :: rest =>
    if c = quoteChar ∧ rest[1]? = some quoteChar then splitOperands 2 (c :: acc) rest
    else if c = commentChar then [acc.reverse]
    else if c = commaChar then acc.reverse :: splitOperands 0 [] rest
    else splitOperands 0 (c :: acc) rest

/-- A decimal numeral's value, most significant digit first; `none` for an empty or ill-formed one. -/
def decimalValue (cs : List Char) : Option Nat :=
  if cs.isEmpty || !cs.all Char.isDigit then none
  else some (cs.foldl (fun v c => 10 * v + (c.toNat - 48)) 0)

/-- A hex numeral's value with one more character read. -/
def hexStep (v : Option Nat) (c : Char) : Option Nat :=
  match v, hexValue c with
  | some n, some d => some (16 * n + d.toNat)
  | _, _ => none

/-- A hex numeral's value, after its `0x`. -/
def hexNumeral (cs : List Char) : Option Nat :=
  if cs.isEmpty then none else cs.foldl hexStep (some 0)

/-- One operand (R72): hex, a character literal (its ASCII code), decimal with an optional minus, or a
bare name. -/
def parseOperand (cs : List Char) : AsmOperand :=
  match cs with
  | '0' :: 'x' :: ds =>
    match hexNumeral ds with
    | some n => .num n
    | none => .name cs
  | '-' :: ds =>
    match decimalValue ds with
    | some n => .num (-n)
    | none => .name cs
  | [q, c, q'] =>
    if q = quoteChar ∧ q' = quoteChar ∧ c.toNat < 128 then .char c.toNat
    else
      match decimalValue cs with
      | some n => .num n
      | none => .name cs
  | _ =>
    match decimalValue cs with
    | some n => .num n
    | none => .name cs

/-- A byte operand, refused outside 0..255 rather than truncated; a character literal means its ASCII
code (R72). -/
def byteOperand : AsmOperand → Option Byte
  | .num v => if 0 ≤ v ∧ v ≤ 255 then some (BitVec.ofInt 8 v) else none
  | .char code => some (BitVec.ofNat 8 code)
  | .name _ => none

/-- An index operand, refused outside 0..31 (R72). -/
def idxOperand : AsmOperand → Option DigestIdx
  | .num v => if 0 ≤ v ∧ v ≤ 31 then some (BitVec.ofInt 5 v) else none
  | .char _ => none
  | .name _ => none

/-- A threshold operand, refused outside -128..128 (R72). -/
def thresholdOperand : AsmOperand → Option Nine
  | .num v => if thresholdLegal v then some (BitVec.ofInt 9 v) else none
  | .char _ => none
  | .name _ => none

/-- The operand `A` or `B` of CMP_RDOP (R72). -/
def selOperand : AsmOperand → Option OperandReg
  | .name cs => if cs = ['A'] then some .cmpA else if cs = ['B'] then some .cmpB else none
  | .num _ => none
  | .char _ => none

/-- A mnemonic with its operands as a command (the operand table of R72). -/
def assembleCommand (mnemonic : String) (ops : List AsmOperand) : Option Instr :=
  match ops with
  | [] =>
    if mnemonic = "NOP" then some .nop
    else if mnemonic = "ACC_CLEAR" then some .accClear
    else if mnemonic = "ACC_FINALIZE" then some .accFinalize
    else if mnemonic = "ACC_RDCNT" then some .accRdcnt
    else if mnemonic = "CMP_CPYA" then some .cmpCpya
    else if mnemonic = "CMP_CPYB" then some .cmpCpyb
    else if mnemonic = "CMP_RUN" then some .cmpRun
    else if mnemonic = "RD_STATUS" then some .rdStatus
    else if mnemonic = "ST_CLEAR" then some .stClear
    else if mnemonic = "RD_SCORE" then some .rdScore
    else none
  | [a] =>
    if mnemonic = "ACC_INGEST" then (byteOperand a).map .accIngest
    else if mnemonic = "ACC_RDDIG" then (idxOperand a).map .accRddig
    else if mnemonic = "CMP_RUN" then (thresholdOperand a).map .cmpRunThr
    else none
  | [a, b] =>
    if mnemonic = "CMP_LDA" then (idxOperand a).bind fun k => (byteOperand b).map (.cmpLda k)
    else if mnemonic = "CMP_LDB" then (idxOperand a).bind fun k => (byteOperand b).map (.cmpLdb k)
    else if mnemonic = "CMP_RDOP" then (selOperand a).bind fun r => (idxOperand b).map (.cmpRdop r)
    else none
  | _ => none

/-- A character of a mnemonic: a letter or an underscore. -/
def isMnemonicChar (c : Char) : Bool := c.isAlpha || c = '_'

/-- What follows a mnemonic begins with a blank or a comment, or is nothing. -/
def endsMnemonic : List Char → Bool
  | [] => true
  | c :: _ => isBlank c || c = commentChar

/-- One line of assembly (R72): `some none` for a line with no command, `none` for one the assembler
refuses. -/
def assembleLine (line : List Char) : Option (Option Instr) :=
  let body := trimBlanks line
  let mnemonic := body.takeWhile isMnemonicChar
  let rest := body.dropWhile isMnemonicChar
  let pieces := (splitOperands 0 [] rest).map trimBlanks
  let ops := if pieces = [[]] then [] else pieces.map parseOperand
  if !endsMnemonic rest then none
  else if mnemonic.isEmpty then (if pieces = [[]] then some none else none)
  else (assembleCommand (String.ofList mnemonic) ops).map some

end Sys2Proof.Machine
end

