-- ==== Sys2Proof/Safety.lean ====
section
/-!
DEFINITION. The terms claims are stated in: the two ways a command ends, written out from the spec's
pseudocode; illegal words; the invariants of reachable states (10_state.md R30); sequences of commands;
and the source's own algorithms, as functions of a whole byte stream or a whole pair of digests, that
the block is to agree with.
-/

namespace Sys2Proof

/-- The commands that invoke finalize (40_datapath.md R80). -/
def Instr.finalizes : Instr → Bool
  | .accFinalize | .accRddig _ | .cmpCpya | .cmpCpyb => true
  | .nop | .accClear | .accIngest _ | .accRdcnt | .cmpLda _ _ | .cmpLdb _ _ | .cmpRun | .cmpRunThr _
  | .rdStatus | .stClear | .cmpRdop _ _ | .rdScore | .reservedF _ => false

/-- The reads without a side effect (20_memory.md R54). -/
def Instr.silentRead : Instr → Bool
  | .accRdcnt | .cmpRdop _ _ | .rdScore | .rdStatus => true
  | .nop | .accClear | .accIngest _ | .accFinalize | .accRddig _ | .cmpLda _ _ | .cmpLdb _ _
  | .cmpCpya | .cmpCpyb | .cmpRun | .cmpRunThr _ | .stClear | .reservedF _ => false

end Sys2Proof

namespace Sys2Proof.Machine

/-- The state after a command that completes with RDATA `v` (00_scope.md R19): one response `(0, v)`. -/
def completed (s : State) (b : Block s.cfg.W) (v : Word) : State :=
  { s with block := b, responses := s.responses ++ [⟨false, v⟩] }

/-- The state after a command rejected with error code `code`, as the pseudocode of 60_exceptions.md
R124 has it: the first error since the last clear is kept, and no other state changes. -/
def rejected (s : State) (code : BitVec 4) : State :=
  { s with
    block := { s.block with errCode := if s.block.err then s.block.errCode else code, err := true }
    responses := s.responses ++ [⟨true, code.setWidth 32⟩] }

/-- The word is rejected with ILLEGAL_COMMAND (code 1) in every state in which it is the next command
(R120, R124). -/
def IllegalWord (w : Word) : Prop :=
  ∀ (s : State) (rest : List HostAct), s.input = .command w :: rest →
    step s = .next (rejected { s with input := rest } 1)

/-- A run without errors: ERR is 0, so no command has been rejected since the last clear (93 U1). -/
def State.clean (s : State) : Bool := !s.block.err

/-- What holds of the block in every state reachable from reset. (a) to (d) are R30's; the others follow
from the rules they name. -/
structure Block.Inv {W : Nat} (b : Block W) : Prop where
  /-- (a) WLEN = min(NUM_CHAR, 4). -/
  windowLength : b.wlen.toNat = min b.numChar.toNat 4
  /-- (b) The counters sum to triplet_count(NUM_CHAR). -/
  histogramSum : (b.hist.toList.map BitVec.toNat).sum = tripletCount b.numChar.toNat
  /-- (c) A finalized accumulator's DIGEST is the digest of its histogram. -/
  digestCached : b.fin = true → b.digest = digitize b.hist b.numChar.toNat
  /-- (d) Wk = 0 for every k ≥ WLEN. -/
  windowZero : (b.wlen.toNat ≤ 0 → b.w0 = 0) ∧ (b.wlen.toNat ≤ 1 → b.w1 = 0) ∧
    (b.wlen.toNat ≤ 2 → b.w2 = 0) ∧ (b.wlen.toNat ≤ 3 → b.w3 = 0)
  /-- While no byte has been ingested, DIGEST is all zero (R29, R85, R93). -/
  emptyDigest : b.numChar = 0 → b.digest = Vector.replicate 32 0
  /-- ERRCODE is one of the codes 0 to 3 (93 U7), and 0 exactly when ERR is 0 (R34). -/
  errorCode : b.errCode.toNat ≤ 3 ∧ (b.errCode = 0 ↔ b.err = false)
  /-- SCORE is in [-128, 128] (R32). -/
  scoreRange : -128 ≤ b.score.toInt ∧ b.score.toInt ≤ 128

/-- The invariant of the machine: its block's. -/
def State.Inv (s : State) : Prop := s.block.Inv

/-- Commands one after the other, each completely before the next (R9, R57). -/
def execAll : List Instr → State → Host.Outcome State Fault Refusal
  | [], s => .next s
  | i :: is, s =>
    match exec i s with
    | .next s' => execAll is s'
    | .fault r => .fault r
    | .refused r => .refused r

/-- The buckets ingesting `c` increments at window length `len`, as steps 2 to 4 of R86 list them. -/
def ingestSteps (len : Nat) (w0 w1 w2 w3 c : Byte) : List Byte :=
  (if 2 ≤ len then [tran3 c w0 w1 0] else []) ++
  (if 3 ≤ len then [tran3 c w0 w2 1, tran3 c w1 w2 2] else []) ++
  (if 4 ≤ len then [tran3 c w0 w3 3, tran3 c w1 w3 4, tran3 c w2 w3 5, tran3 w3 w0 c 6, tran3 w3 w2 c 7]
   else [])

/-- The source's trigrams of one byte, given every byte before it, the most recent first: no window
registers, only the stream (NIL §4.2 as 40_datapath.md R75 quotes it). -/
def trigramsAt (before : List Byte) (c : Byte) : List Byte :=
  match before with
  | w0 :: w1 :: w2 :: w3 :: _ =>
    [tran3 c w0 w1 0, tran3 c w0 w2 1, tran3 c w1 w2 2, tran3 c w0 w3 3, tran3 c w1 w3 4, tran3 c w2 w3 5,
     tran3 w3 w0 c 6, tran3 w3 w2 c 7]
  | [w0, w1, w2] => [tran3 c w0 w1 0, tran3 c w0 w2 1, tran3 c w1 w2 2]
  | [w0, w1] => [tran3 c w0 w1 0]
  | _ => []

/-- The trigrams of a stream that follows the bytes `before`. -/
def streamTrigrams : List Byte → List Byte → List Byte
  | _, [] => []
  | before, c :: cs => trigramsAt before c ++ streamTrigrams (c :: before) cs

/-- Bit `i` of the digest of a byte stream, from the stream alone: bucket `i` was selected more often
than the mean (R77). -/
def streamDigestBit (bs : List Byte) (i : Nat) : Bool :=
  decide (tripletCount bs.length < 256 * (streamTrigrams [] bs).count (BitVec.ofNat 8 i))

/-- Bit `i` of a digest: the bit of bucket `i` (20_memory.md R45). -/
def digestBit (d : Digest) (i : Nat) : Bool := (d.toList.getD (31 - i / 8) 0).getLsbD (i % 8)

/-- A digest as a 256-bit number, DIGEST[0] most significant (20_memory.md R46). -/
def digestNumber (d : Digest) : Nat :=
  (d.toList.zipIdx.map fun p => p.1.toNat * 256 ^ (31 - p.2)).sum

/-- The source's serial comparison (R83): the byte pairs one after the other, aborted with `T - 1` as
soon as the running count of differing bits exceeds `128 - T`. -/
def serialCompare (t : Int) : List (Byte × Byte) → Nat → Int × Bool
  | [], running => (128 - running, false)
  | (x, y) :: rest, running =>
    let now := running + (popc (x ^^^ y)).toNat
    if (now : Int) > 128 - t then (t - 1, true) else serialCompare t rest now

/-- The byte pairs of two digests (20_memory.md R47). -/
def bytePairs (a b : Digest) : List (Byte × Byte) := a.toList.zip b.toList

/-- An assembly line (30_encoding.md R72): the mnemonic, then its operands separated by commas. -/
def asmLine (mnemonic : String) (operands : List (List Char)) : List Char :=
  mnemonic.toList ++ ' ' :: List.intercalate [',', ' '] operands

/-- A number in decimal (R72). -/
def decimalText (v : Int) : List Char :=
  if v < 0 then '-' :: Nat.toDigits 10 v.natAbs else Nat.toDigits 10 v.natAbs

/-- A number in hex (R72). -/
def hexText (n : Nat) : List Char := '0' :: 'x' :: Nat.toDigits 16 n

/-- A character literal (R72). -/
def charText (c : Char) : List Char := [quoteChar, c, quoteChar]

end Sys2Proof.Machine
end

