-- ==== Sys2Proof/Certificates/Slice0/Obligations.lean ====
section
/-!
DEFINITION. The statements for the provers. Each docstring names the rule of spec/ it formalises. A
command's statement gives its word, the words of its opcode that are illegal, and the next state that
exec answers, whole, so that it is the command's result, its completion and its frame at once.
-/

open Sys2Proof Sys2Proof.Machine

/-! Encoding -/

/-- R62 to R69: a command's word decodes to that command, every operand at every value. -/
def Obligations.DecodeOfEncodedCommand : Prop :=
  ∀ i : Instr, decode (encode i) = .ok i

/-- R62 to R70: a word that decodes is the word of the command it decodes to, so no command has two
words and no bit of a word is ignored. -/
def Obligations.EncodeOfDecodedWord : Prop :=
  ∀ (w : Word) (i : Instr), decode w = .ok i → encode i = w

/-- R69: no two rows of the opcode map, the reserved opcode's included, are selected by one word. -/
def Obligations.OpcodeRowsDisjoint : Prop :=
  (commandRows ++ [reservedRow]).Pairwise fun r r' => ∀ w : Word, ¬ (r.selects w = true ∧ r'.selects w = true)

/-- R120: ILLEGAL_COMMAND is raised for exactly the words that select no command row: OP = 0xF, a
reserved bit of the format set, or OP = 0xA with TE = 0 and THR not 0. -/
def Obligations.IllegalCommandExactlyUnlistedWords : Prop :=
  ∀ w : Word,
    ((∀ r ∈ commandRows, r.selects w = false) → IllegalWord w) ∧
    ((∃ r ∈ commandRows, r.selects w = true) → ∀ (s : State) (rest : List HostAct),
      s.input = .command w :: rest →
      ∃ (b : Block s.cfg.W) (r : Response),
        step s = .next { s with block := b, input := rest, responses := s.responses ++ [r] } ∧
        r ≠ ⟨true, 1⟩) ∧
    ((∀ r ∈ commandRows, r.selects w = false) ↔
      opField w = 0xF ∨
      (opField w ∈ [0x0#4, 0x1#4, 0x3#4, 0x5#4, 0x8#4, 0x9#4, 0xB#4, 0xC#4, 0xE#4] ∧ field w 0 28 ≠ 0) ∨
      (opField w = 0x2 ∧ field w 8 20 ≠ 0) ∨
      (opField w = 0x4 ∧ field w 5 23 ≠ 0) ∨
      (opField w ∈ [0x6#4, 0x7#4] ∧ field w 13 15 ≠ 0) ∨
      (opField w = 0xA ∧ (field w 10 18 ≠ 0 ∨ (field w 9 1 = 0 ∧ field w 0 9 ≠ 0))) ∨
      (opField w = 0xD ∧ (field w 9 19 ≠ 0 ∨ field w 5 3 ≠ 0)))

/-- R72's examples and 95_test_vectors.md section 2.7: words of every format, written out from the
spec, decode to the commands they stand for, and illegal ones to none. -/
def Obligations.SpecWordsDecode : Prop :=
  decode 0x00000000 = .ok .nop ∧
  decode 0x20000061 = .ok (.accIngest 0x61) ∧
  decode 0x4000001F = .ok (.accRddig 31) ∧
  decode 0x600003FF = .ok (.cmpLda 3 0xFF) ∧
  decode 0x70000014 = .ok (.cmpLdb 0 0x14) ∧
  decode 0xA0000000 = .ok .cmpRun ∧
  decode 0xA0000264 = .ok (.cmpRunThr 100) ∧
  decode 0xA0000380 = .ok (.cmpRunThr 0x180) ∧
  decode 0xD0000105 = .ok (.cmpRdop .cmpB 5) ∧
  decode 0xE0000000 = .ok .rdScore ∧
  decode 0xD00000E0 = .error .reservedBit ∧
  decode 0xA0000001 = .error .thresholdNotEnabled ∧
  decode 0xA0010281 = .error .reservedBit

/-- R68, R121: the THR patterns of a legal threshold are 0x000..0x080 and 0x180..0x1FF, and the
illegal ones are 0x081..0x17F. -/
def Obligations.ThresholdPatterns : Prop :=
  ∀ thr : Nine,
    (thresholdLegal (thresholdOf thr) = true ↔ thr.toNat ≤ 0x080 ∨ 0x180 ≤ thr.toNat) ∧
    (thresholdLegal (thresholdOf thr) = false ↔ 0x081 ≤ thr.toNat ∧ thr.toNat ≤ 0x17F)

/-- R108: every word of the reserved opcode is rejected with ILLEGAL_COMMAND; it changes no state
except ERR and ERRCODE and responds (1, 1). -/
def Obligations.ReservedOpcodeRejected : Prop :=
  (∀ w : Word, opField w = 0xF → IllegalWord w) ∧
  (∀ (rest : BitVec 28) (s : State), exec (.reservedF rest) s = .next (rejected s 1)) ∧
  IllegalWord 0xF0000000 ∧ IllegalWord 0xFFFFFFFF

/-! Step and reset -/

/-- R9, R70 step 4: when the host's next act is a word that decodes to a command, the step is that
command's, on the state in which the word has been taken; nothing else happens around it. The same
word put in place by withFetchWord runs the same command. -/
def Obligations.StepRunsDecodedCommand : Prop :=
  (∀ (s : State) (w : Word) (rest : List HostAct) (i : Instr),
    s.input = .command w :: rest → decode w = .ok i → step s = exec i { s with input := rest }) ∧
  (∀ (s : State) (w : Word) (i : Instr), decode w = .ok i → step (s.withFetchWord 32 w.toNat) = exec i s)

/-- R11: every word selects a command or is rejected with ILLEGAL_COMMAND; no word leaves the block
stuck or without a response (it returns exactly one), and no step of the machine stops it. -/
def Obligations.EveryWordAnsweredOnce : Prop :=
  (∀ w : Word, (∃ i, decode w = .ok i) ∨ IllegalWord w) ∧
  (∀ (s : State) (w : Word) (rest : List HostAct), s.input = .command w :: rest →
    ∃ (b : Block s.cfg.W) (r : Response),
      step s = .next { s with block := b, input := rest, responses := s.responses ++ [r] }) ∧
  (∀ s : State, ∃ t, step s = .next t)

/-- R137: asserting reset between commands sets every piece of state to its reset value, and
State.reset holds the same values. -/
def Obligations.ResetSetsEveryState : Prop :=
  (∀ (s : State) (rest : List HostAct), s.input = .reset :: rest →
    ∃ t : State, step s = .next t ∧ t.cfg = s.cfg ∧
      t.block =
        { w0 := 0, w1 := 0, w2 := 0, w3 := 0, wlen := 0, numChar := 0, hist := Vector.replicate 256 0,
          fin := false, digest := Vector.replicate 32 0, cmpA := Vector.replicate 32 0,
          cmpB := Vector.replicate 32 0, score := 0, ee := false, err := false, errCode := 0 }) ∧
  State.reset.block =
    { w0 := 0, w1 := 0, w2 := 0, w3 := 0, wlen := 0, numChar := 0, hist := Vector.replicate 256 0,
      fin := false, digest := Vector.replicate 32 0, cmpA := Vector.replicate 32 0,
      cmpB := Vector.replicate 32 0, score := 0, ee := false, err := false, errCode := 0 }

/-- R138: after reset the accumulator is Empty, RD_STATUS returns 0 and the block waits for its first
command; and the state after reset is the state after ACC_CLEAR but for the comparator, EE and the
error record. That a step with no act pending holds the state is the model's reading (log entry 4),
and so is what reset does to the host's side of the ports (log entry 5).
R138 is an inference of the spec's own ([derived]). -/
def Obligations.AfterResetEmptyAndWaiting : Prop :=
  State.reset.block.astate = .empty ∧
  exec .rdStatus State.reset = .next (completed State.reset State.reset.block 0) ∧
  (∀ s : State, s.input = [] → step s = .next s) ∧
  (∀ (s : State) (rest : List HostAct), s.input = .reset :: rest →
    ∃ t : Block s.cfg.W, step s = .next { s with input := rest, block := t } ∧
      exec .accClear s = .next (completed s
        { t with cmpA := s.block.cmpA, cmpB := s.block.cmpB, score := s.block.score, ee := s.block.ee,
                 err := s.block.err, errCode := s.block.errCode } 0))

/-- R30, with the ranges of ERRCODE (93 U7) and SCORE (R32): the invariant holds at reset.
R30 is an inference of the spec's own ([derived]). -/
def Obligations.ResetMeetsInvariant : Prop :=
  State.reset.Inv ∧ ∀ W : Nat, (Block.reset W).Inv

/-- R30: every step keeps the invariant, whatever the host does and whatever the parameter W; so it
holds in every state reachable from reset.
R30 is an inference of the spec's own ([derived]). -/
def Obligations.EveryStepKeepsInvariant : Prop :=
  ∀ s t : State, s.Inv → step s = .next t → t.Inv

/-- R90: no counter can overflow. Every counter is at most the sum of all counters, which is
triplet_count(NUM_CHAR), which is at most 8(2^W - 1) - 28, which is less than 2^(W+3).
The rule is an inference of the spec's own ([derived]). -/
def Obligations.HistogramCannotOverflow : Prop :=
  ∀ s : State, s.Inv →
    (∀ i : Fin 256, s.block.hist[i].toNat ≤ (s.block.hist.toList.map BitVec.toNat).sum) ∧
    (s.block.hist.toList.map BitVec.toNat).sum = tripletCount s.block.numChar.toNat ∧
    tripletCount s.block.numChar.toNat ≤ 8 * (2 ^ s.cfg.W - 1) - 28 ∧
    8 * (2 ^ s.cfg.W - 1) - 28 < 2 ^ (s.cfg.W + 3)

/-! Datapath and tables -/

/-- R74: tran3 is the source's formula, with the product not reduced before the XOR, and all index
and result arithmetic modulo 256; with the worked example.
That reducing the product first changes nothing is an inference of the spec's own ([derived]). -/
def Obligations.HashIsSourceFormula : Prop :=
  (∀ (a b c : Byte) (n : Fin 8),
    (tran3 a b c n).toNat =
      (((tran (BitVec.ofNat 8 ((a.toNat + n.val) % 256))).toNat ^^^ ((tran b).toNat * (2 * n.val + 1))) +
        (tran (c ^^^ tran (BitVec.ofNat 8 n.val))).toNat) % 256) ∧
  tran3 0x63 0x62 0x61 0 = 0xF6

/-- R76: triplet_count(N) is the number of increments N bytes make: 0 for each of the first two, 1 for
the third, 3 for the fourth, 8 for each after, which is how many slots are active (R75); and its
maximum is 8(2^W - 1) - 28 < 2^(W+3).
The equality with the slot count is an inference of the spec's own ([derived]). -/
def Obligations.TripletCountCountsIncrements : Prop :=
  (∀ n : Nat, tripletCount n =
    ((List.range n).map fun k => if k < 2 then 0 else if k = 2 then 1 else if k = 3 then 3 else 8).sum) ∧
  (∀ (n : Nat) (w0 w1 w2 w3 c : Byte),
    tripletCount (n + 1) = tripletCount n + (activeBuckets (min n 4) w0 w1 w2 w3 c).length) ∧
  (∀ n : Nat, n < 3 → tripletCount n = 0) ∧ tripletCount 3 = 1 ∧ tripletCount 4 = 4 ∧
  (∀ n : Nat, 4 < n → tripletCount n = 8 * n - 28) ∧
  (∀ c : Config, ∀ n : Nat, n < 2 ^ c.W → tripletCount n ≤ tripletCount (2 ^ c.W - 1)) ∧
  (∀ c : Config, tripletCount (2 ^ c.W - 1) = 8 * (2 ^ c.W - 1) - 28 ∧
    tripletCount (2 ^ c.W - 1) < 2 ^ (c.W + 3))

/-- R77: the integer comparison of the block is the strict comparison with the real threshold
triplet_count(N) / 256, and it decides the bucket's digest bit.
That the two comparisons agree is an inference of the spec's own ([derived]). -/
def Obligations.ThresholdIsStrictRealComparison : Prop :=
  (∀ count n : Nat, overThreshold count (tripletCount n) = true ↔ (tripletCount n : ℝ) / 256 < count) ∧
  (∀ (w : Nat) (hist : Vector (BitVec w) 256) (n : Nat) (i : Fin 256),
    digestBit (digitize hist n) i.val = true ↔ (tripletCount n : ℝ) / 256 < hist[i].toNat)

/-- R78: the threshold is an integer only for N < 3; for N ≥ 3 no bucket ever equals it, and for N < 3
every counter of a reachable state is 0 and the digest is all zero.
The rule is an inference of the spec's own ([derived]). -/
def Obligations.ThresholdNeverTies : Prop :=
  (∀ n : Nat, 256 ∣ tripletCount n ↔ n < 3) ∧
  (∀ n count : Nat, 3 ≤ n → 256 * count ≠ tripletCount n) ∧
  (∀ s : State, s.Inv → s.block.numChar.toNat < 3 →
    (∀ i : Fin 256, s.block.hist[i] = 0) ∧
    digitize s.block.hist s.block.numChar.toNat = Vector.replicate 32 0)

/-- R45, R79: bucket i of the histogram is bit i mod 8 of digest byte 31 - (i div 8). -/
def Obligations.DigestBitPlacement : Prop :=
  ∀ (w : Nat) (hist : Vector (BitVec w) 256) (n i : Nat) (h : i < 256),
    ((digitize hist n)[31 - i / 8]).getLsbD (i % 8) = decide (256 * hist[i].toNat > tripletCount n)

/-- R46: read as a 256-bit number with DIGEST[0] most significant, bit i of the digest is the digitized
value of bucket i.
The rule is an inference of the spec's own ([derived]). -/
def Obligations.DigestAsNumber : Prop :=
  ∀ (w : Nat) (hist : Vector (BitVec w) 256) (n : Nat) (i : Fin 256),
    (digestNumber (digitize hist n)).testBit i.val = overThreshold hist[i].toNat (tripletCount n)

/-- R37: TRAN has 256 entries, each value 0..255 once, and their sum is 32640.
The table's values are the spec's, from general knowledge (log entry 7). -/
def Obligations.TranIsPermutation : Prop :=
  tranTable.length = 256 ∧ tranTable.Nodup ∧ (tranTable.map BitVec.toNat).sum = 32640

/-- R38: the table of R37 is the output of the procedure.
Both are the spec's, from general knowledge (log entry 7). -/
def Obligations.TranIsProcedureOutput : Prop :=
  tranGenerated = tranTable

/-- R39: POPC[x] is the number of 1 bits of x. -/
def Obligations.PopcCountsSetBits : Prop :=
  popcTable.length = 256 ∧
  ∀ x : Byte, (popc x).toNat = ((List.range 8).filter fun i => x.getLsbD i).length

/-- R81, R39: the comparator's distance is the number of bit positions in which the two digests
differ; it is at most 256, and the order of the operands does not matter.
The order-independence is an inference of the spec's own ([derived]). -/
def Obligations.DistanceCountsDifferingBits : Prop :=
  ∀ a b : Digest,
    distance a b = ((List.range 256).filter fun i => digestBit a i != digestBit b i).length ∧
    distance a b ≤ 256 ∧ distance a b = distance b a

/-- R82: the score is in [-128, 128]; 128 means identical operands, and -128 occurs exactly when one
is the bitwise complement of the other. -/
def Obligations.ScoreRangeAndExtremes : Prop :=
  ∀ a b : Digest,
    exactScore (distance a b) = 128 - (distance a b : Int) ∧
    -128 ≤ exactScore (distance a b) ∧ exactScore (distance a b) ≤ 128 ∧
    (exactScore (distance a b) = 128 ↔ a = b) ∧
    (exactScore (distance a b) = -128 ↔ ∀ k : Fin 32, b[k] = ~~~ a[k])

/-- R83: the serial comparison of the source, which stops as soon as the running count exceeds
128 - T, gives the same result and the same exit as the total-distance form, in whatever order the
byte positions are scanned.
The rule is an inference of the spec's own ([derived]). -/
def Obligations.SerialExitEqualsTotalForm : Prop :=
  ∀ (a b : Digest) (t : Int) (order : List (Byte × Byte)), -128 ≤ t → t ≤ 128 →
    order.Perm (bytePairs a b) →
    serialCompare t order 0 = early (distance a b) (some t) ∧
    early (distance a b) (some t) =
      (if (distance a b : Int) > 128 - t then (t - 1, true) else (128 - (distance a b : Int), false))

/-- R84: with a legal T the result stays in [-128, 128]; T = -128 never exits; T = 128 exits whenever
the operands differ, with 127; and an exit's T - 1 is the exact score only when d = 129 - T.
The rule is an inference of the spec's own ([derived]). -/
def Obligations.EarlyExitRange : Prop :=
  ∀ (a b : Digest) (t : Int), -128 ≤ t → t ≤ 128 →
    -128 ≤ (early (distance a b) (some t)).1 ∧ (early (distance a b) (some t)).1 ≤ 128 ∧
    ((early (distance a b) (some t)).2 = true → -128 < t ∧ (early (distance a b) (some t)).1 = t - 1 ∧
      (early (distance a b) (some t)).1 ≤ 127) ∧
    (t = -128 → early (distance a b) (some t) = (exactScore (distance a b), false)) ∧
    (t = 128 → ((early (distance a b) (some t)).2 = true ↔ a ≠ b) ∧
      (a ≠ b → (early (distance a b) (some t)).1 = 127)) ∧
    ((early (distance a b) (some t)).2 = true →
      ((early (distance a b) (some t)).1 = exactScore (distance a b) ↔ (distance a b : Int) = 129 - t))

/-! Accumulator commands -/

/-- R85: ACC_CLEAR returns the accumulator to Empty and changes nothing else; in Empty state (of a
reachable state) it leaves the state unchanged. A construction from buffers is ACC_CLEAR and then the
bytes of their concatenation. -/
def Obligations.ClearEmptiesAccumulator : Prop :=
  encode .accClear = 0x10000000 ∧
  (∀ w : Word, opField w = 0x1 → w ≠ 0x10000000 → IllegalWord w) ∧
  (∀ s : State, exec .accClear s = .next (completed s
    { s.block with w0 := 0, w1 := 0, w2 := 0, w3 := 0, wlen := 0, numChar := 0,
                   hist := Vector.replicate 256 0, fin := false, digest := Vector.replicate 32 0 } 0)) ∧
  (∀ s : State, s.Inv → s.block.astate = .empty → exec .accClear s = .next (completed s s.block 0)) ∧
  (∀ buffers : List (List Byte),
    construct (buffers.map .bytes) = (.accClear :: ingestBytes buffers.flatten, none))

/-- R86, R87, R88: ACC_INGEST below the count limit takes one byte in: the count grows by 1, each
active slot adds 1 to its bucket (in a state that meets the invariant, k slots of one bucket add exactly
k), the window shifts unconditionally, FIN is cleared; no other state changes, and it responds 0. At the
count limit it is rejected with COUNT_OVERFLOW. What a counter does in a state no run reaches is
IngestCounterHasItsWidth. -/
def Obligations.IngestTakesOneByte : Prop :=
  (∀ c : Byte, encode (.accIngest c) = 0x20000000#32 + c.setWidth 32) ∧
  (∀ w : Word, opField w = 0x2 → field w 8 20 ≠ 0 → IllegalWord w) ∧
  (∀ (s : State) (c : Byte), s.block.numChar.toNat = 2 ^ s.cfg.W - 1 →
    exec (.accIngest c) s = .next (rejected s 3)) ∧
  (∀ (s : State) (c : Byte), s.block.numChar.toNat ≠ 2 ^ s.cfg.W - 1 →
    ∃ b : Block s.cfg.W,
      exec (.accIngest c) s = .next (completed s b 0) ∧
      b = { s.block with w0 := c, w1 := s.block.w0, w2 := s.block.w1, w3 := s.block.w2, fin := false,
                         wlen := b.wlen, numChar := b.numChar, hist := b.hist } ∧
      b.numChar.toNat = s.block.numChar.toNat + 1 ∧
      b.wlen.toNat = min (s.block.wlen.toNat + 1) 4 ∧
      (s.Inv → ∀ i : Fin 256, b.hist[i].toNat = s.block.hist[i].toNat +
          (ingestSteps s.block.wlen.toNat s.block.w0 s.block.w1 s.block.w2 s.block.w3 c).count
            (BitVec.ofNat 8 i.val)))

/-- ACC_INGEST on any state, those no run reaches included: each counter grows by the number of slots that
select its bucket, modulo 2^(W+3), the width R14 gives it. That a counter wraps is the model's choice
(log entry 10); in a reachable state none does (R90). -/
def Obligations.IngestCounterHasItsWidth : Prop :=
  ∀ (s : State) (c : Byte), s.block.numChar.toNat ≠ 2 ^ s.cfg.W - 1 →
    ∃ b : Block s.cfg.W,
      exec (.accIngest c) s = .next (completed s b 0) ∧
      ∀ i : Fin 256, b.hist[i].toNat =
        (s.block.hist[i].toNat +
          (ingestSteps s.block.wlen.toNat s.block.w0 s.block.w1 s.block.w2 s.block.w3 c).count
            (BitVec.ofNat 8 i.val)) % 2 ^ (s.cfg.W + 3)

/-- R89, R122: ACC_INGEST at NUM_CHAR = 2^W - 1, and only there, is rejected with COUNT_OVERFLOW, and
nothing but ERR and ERRCODE changes; so NUM_CHAR never wraps. -/
def Obligations.IngestOverflowRejected : Prop :=
  (∀ (s : State) (c : Byte), s.block.numChar.toNat = 2 ^ s.cfg.W - 1 →
    exec (.accIngest c) s = .next (rejected s 3)) ∧
  (∀ (s : State) (i : Instr), exec i s = .next (rejected s 3) →
    (∃ c, i = .accIngest c) ∧ s.block.numChar.toNat = 2 ^ s.cfg.W - 1)

/-- R80, R93: ACC_FINALIZE computes DIGEST from HIST and NUM_CHAR and sets FIN if FIN was 0, and changes
nothing if FIN was 1; with fewer than 3 bytes (of a reachable state) the digest is all zero. -/
def Obligations.FinalizeComputesOrKeepsDigest : Prop :=
  encode .accFinalize = 0x30000000 ∧
  (∀ w : Word, opField w = 0x3 → w ≠ 0x30000000 → IllegalWord w) ∧
  (∀ s : State, s.block.fin = true → exec .accFinalize s = .next (completed s s.block 0)) ∧
  (∀ s : State, s.block.fin = false → exec .accFinalize s = .next (completed s
    { s.block with digest := digitize s.block.hist s.block.numChar.toNat, fin := true } 0)) ∧
  (∀ s : State, s.Inv → s.block.numChar.toNat < 3 → exec .accFinalize s = .next (completed s
    { s.block with digest := Vector.replicate 32 0, fin := true } 0))

/-- R94: ACC_RDDIG finalizes if needed, then returns one byte of the digest, zero-extended; of an Empty
accumulator (in a reachable state) it returns 0. -/
def Obligations.RddigReturnsDigestByte : Prop :=
  (∀ k : DigestIdx, encode (.accRddig k) = 0x40000000#32 + k.setWidth 32) ∧
  (∀ w : Word, opField w = 0x4 → field w 5 23 ≠ 0 → IllegalWord w) ∧
  (∀ (s : State) (k : DigestIdx), s.block.fin = true →
    exec (.accRddig k) s = .next (completed s s.block ((s.block.digest.toList.getD k.toNat 0).setWidth 32))) ∧
  (∀ (s : State) (k : DigestIdx), s.block.fin = false →
    exec (.accRddig k) s = .next (completed s
      { s.block with digest := digitize s.block.hist s.block.numChar.toNat, fin := true }
      (((digitize s.block.hist s.block.numChar.toNat).toList.getD k.toNat 0).setWidth 32))) ∧
  (∀ (s : State) (k : DigestIdx), s.Inv → s.block.astate = .empty →
    exec (.accRddig k) s = .next (completed s { s.block with fin := true } 0))

/-- R95: ACC_RDCNT returns NUM_CHAR, zero-extended, and changes no state; no bit of it is lost. -/
def Obligations.RdcntReturnsCount : Prop :=
  encode .accRdcnt = 0x50000000 ∧
  (∀ w : Word, opField w = 0x5 → w ≠ 0x50000000 → IllegalWord w) ∧
  (∀ s : State, ∃ v : Word, exec .accRdcnt s = .next (completed s s.block v) ∧
    v.toNat = s.block.numChar.toNat)

/-- R54, R80: the commands that finalize do so when FIN = 0 and are idempotent: repeating one changes no
state and returns the same value; the other reads change no state. -/
def Obligations.FinalizingReadsIdempotent : Prop :=
  (∀ (i : Instr) (s : State), i.finalizes = true →
    ∃ (b : Block s.cfg.W) (v : Word), b.fin = true ∧
      exec i s = .next (completed s b v) ∧
      exec i (completed s b v) = .next (completed (completed s b v) b v)) ∧
  (∀ (i : Instr) (s : State), i.silentRead = true → ∃ v : Word, exec i s = .next (completed s s.block v))

/-- R142, R91: a finalizing command in the middle of a stream does not change the digest eventually
computed for the whole stream: with or without it, any further bytes and a finalize end in the same
digest.
The rule is an inference of the spec's own ([derived]). -/
def Obligations.MidStreamReadIsSafe : Prop :=
  ∀ (s : State) (i : Instr) (bs : List Byte), i.finalizes = true →
    ∃ t t' : State,
      execAll (ingestBytes bs ++ [.accFinalize]) s = .next t ∧
      execAll (i :: (ingestBytes bs ++ [.accFinalize])) s = .next t' ∧
      t'.block.digest = t.block.digest ∧ t'.block.fin = true

/-- R91, R92, 90 C1: the block computes the source's digest of the byte stream. From any state,
ACC_CLEAR, then the bytes of any stream shorter than 2^W, then a finalize, leave a digest that is the
stream's own; a finalizing command between two parts of the stream makes no difference, and neither
does how the host cut the stream into chunks.
R92 is an inference of the spec's own ([derived]). -/
def Obligations.DigestIsTheStreamsDigest : Prop :=
  (∀ (s : State) (xs ys : List Byte) (i : Instr), xs.length + ys.length < 2 ^ s.cfg.W →
    i.finalizes = true →
    ∃ t t' : State,
      execAll ([.accClear] ++ ingestBytes (xs ++ ys) ++ [.accFinalize]) s = .next t ∧
      execAll ([.accClear] ++ ingestBytes xs ++ [i] ++ ingestBytes ys ++ [.accFinalize]) s = .next t' ∧
      t.block.numChar.toNat = xs.length + ys.length ∧
      t.block.digest = t'.block.digest ∧
      ∀ j : Fin 256, digestBit t.block.digest j.val = streamDigestBit (xs ++ ys) j.val) ∧
  (∀ xs ys : List Byte,
    ingestChunks [.bytes xs, .bytes ys] = ingestChunks [.bytes (xs ++ ys)])

/-! Comparator commands -/

/-- R96: CMP_LDA writes one byte of CMPA and nothing else. -/
def Obligations.LdaWritesOneByte : Prop :=
  (∀ (k : DigestIdx) (v : Byte),
    encode (.cmpLda k v) = 0x60000000#32 + k.setWidth 32 * 256 + v.setWidth 32) ∧
  (∀ w : Word, opField w = 0x6 → field w 13 15 ≠ 0 → IllegalWord w) ∧
  (∀ (s : State) (k : DigestIdx) (v : Byte), ∃ d : Digest,
    exec (.cmpLda k v) s = .next (completed s { s.block with cmpA := d } 0) ∧
    ∀ j : Fin 32, d[j] = if j.val = k.toNat then v else s.block.cmpA[j])

/-- R97: CMP_LDB writes one byte of CMPB and nothing else. -/
def Obligations.LdbWritesOneByte : Prop :=
  (∀ (k : DigestIdx) (v : Byte),
    encode (.cmpLdb k v) = 0x70000000#32 + k.setWidth 32 * 256 + v.setWidth 32) ∧
  (∀ w : Word, opField w = 0x7 → field w 13 15 ≠ 0 → IllegalWord w) ∧
  (∀ (s : State) (k : DigestIdx) (v : Byte), ∃ d : Digest,
    exec (.cmpLdb k v) s = .next (completed s { s.block with cmpB := d } 0) ∧
    ∀ j : Fin 32, d[j] = if j.val = k.toNat then v else s.block.cmpB[j])

/-- R98: CMP_CPYA finalizes if needed and copies the whole digest to CMPA; in Empty state (of a
reachable state) it loads the all-zero digest. -/
def Obligations.CpyaCopiesDigest : Prop :=
  encode .cmpCpya = 0x80000000 ∧
  (∀ w : Word, opField w = 0x8 → w ≠ 0x80000000 → IllegalWord w) ∧
  (∀ s : State, s.block.fin = true →
    exec .cmpCpya s = .next (completed s { s.block with cmpA := s.block.digest } 0)) ∧
  (∀ s : State, s.block.fin = false →
    exec .cmpCpya s = .next (completed s
      { s.block with digest := digitize s.block.hist s.block.numChar.toNat, fin := true,
                     cmpA := digitize s.block.hist s.block.numChar.toNat } 0)) ∧
  (∀ s : State, s.Inv → s.block.astate = .empty →
    exec .cmpCpya s = .next (completed s { s.block with fin := true, cmpA := Vector.replicate 32 0 } 0))

/-- R99: CMP_CPYB is CMP_CPYA with CMPB in place of CMPA. -/
def Obligations.CpybCopiesDigest : Prop :=
  encode .cmpCpyb = 0x90000000 ∧
  (∀ w : Word, opField w = 0x9 → w ≠ 0x90000000 → IllegalWord w) ∧
  (∀ s : State, s.block.fin = true →
    exec .cmpCpyb s = .next (completed s { s.block with cmpB := s.block.digest } 0)) ∧
  (∀ s : State, s.block.fin = false →
    exec .cmpCpyb s = .next (completed s
      { s.block with digest := digitize s.block.hist s.block.numChar.toNat, fin := true,
                     cmpB := digitize s.block.hist s.block.numChar.toNat } 0)) ∧
  (∀ s : State, s.Inv → s.block.astate = .empty →
    exec .cmpCpyb s = .next (completed s { s.block with fin := true, cmpB := Vector.replicate 32 0 } 0))

/-- R100: CMP_RUN. Without a threshold SCORE gets 128 - distance and EE 0; with a legal threshold T, SCORE
gets T - 1 and EE 1 when the distance exceeds 128 - T, else the exact score and EE 0; either way it responds
the score, sign-extended, in [-128, 128], and changes nothing else. With T outside [-128, 128] it is
rejected with INVALID_THRESHOLD. A reserved bit, or TE = 0 with THR not 0, is ILLEGAL_COMMAND. -/
def Obligations.RunScoresOperands : Prop :=
  encode .cmpRun = 0xA0000000 ∧
  (∀ thr : Nine, encode (.cmpRunThr thr) = 0xA0000200#32 + thr.setWidth 32) ∧
  (∀ w : Word, opField w = 0xA →
    (field w 10 18 ≠ 0 ∨ (field w 9 1 = 0 ∧ field w 0 9 ≠ 0)) → IllegalWord w) ∧
  (∀ s : State, ∃ (score : Nine) (v : Word),
    exec .cmpRun s = .next (completed s { s.block with score := score, ee := false } v) ∧
    score.toInt = 128 - (distance s.block.cmpA s.block.cmpB : Int) ∧ v.toInt = score.toInt ∧
    -128 ≤ v.toInt ∧ v.toInt ≤ 128) ∧
  (∀ (s : State) (thr : Nine), -128 ≤ thr.toInt → thr.toInt ≤ 128 →
    ∃ (score : Nine) (v : Word),
      exec (.cmpRunThr thr) s = .next (completed s
        { s.block with score := score,
                       ee := decide ((distance s.block.cmpA s.block.cmpB : Int) > 128 - thr.toInt) } v) ∧
      score.toInt = (if (distance s.block.cmpA s.block.cmpB : Int) > 128 - thr.toInt then thr.toInt - 1
        else 128 - (distance s.block.cmpA s.block.cmpB : Int)) ∧
      v.toInt = score.toInt ∧ -128 ≤ v.toInt ∧ v.toInt ≤ 128) ∧
  (∀ (s : State) (thr : Nine), ¬ (-128 ≤ thr.toInt ∧ thr.toInt ≤ 128) →
    exec (.cmpRunThr thr) s = .next (rejected s 2))

/-- R121: INVALID_THRESHOLD is raised by CMP_RUN with TE = 1 and THR in 0x081..0x17F, and by nothing
else. -/
def Obligations.InvalidThresholdExactly : Prop :=
  (∀ (s : State) (thr : Nine), 0x081 ≤ thr.toNat → thr.toNat ≤ 0x17F →
    exec (.cmpRunThr thr) s = .next (rejected s 2)) ∧
  (∀ (s : State) (i : Instr), exec i s = .next (rejected s 2) →
    ∃ thr : Nine, i = .cmpRunThr thr ∧ 0x081 ≤ thr.toNat ∧ thr.toNat ≤ 0x17F)

/-- R101: swapping CMPA and CMPB gives the same result and the same EE.
The rule is an inference of the spec's own ([derived]). -/
def Obligations.RunIsSymmetric : Prop :=
  ∀ (s : State) (i : Instr), (i = .cmpRun ∨ ∃ thr, i = .cmpRunThr thr ∧ thresholdLegal (thresholdOf thr) = true) →
    ∃ (score : Nine) (ee : Bool) (v : Word),
      exec i s = .next (completed s { s.block with score := score, ee := ee } v) ∧
      exec i { s with block := { s.block with cmpA := s.block.cmpB, cmpB := s.block.cmpA } } =
        .next (completed { s with block := { s.block with cmpA := s.block.cmpB, cmpB := s.block.cmpA } }
          { s.block with cmpA := s.block.cmpB, cmpB := s.block.cmpA, score := score, ee := ee } v)

/-- R102: CMP_RUN's result depends only on CMPA, CMPB, TE and T: two blocks, of any widths W and in any
states, that hold the same operands answer it alike; and it changes only SCORE and EE. -/
def Obligations.RunDependsOnlyOnOperands : Prop :=
  ∀ (s u : State) (i : Instr), (i = .cmpRun ∨ ∃ thr, i = .cmpRunThr thr ∧ thresholdLegal (thresholdOf thr) = true) →
    s.block.cmpA = u.block.cmpA → s.block.cmpB = u.block.cmpB →
    ∃ (score : Nine) (ee : Bool) (v : Word),
      exec i s = .next (completed s { s.block with score := score, ee := ee } v) ∧
      exec i u = .next (completed u { u.block with score := score, ee := ee } v)

/-- R103: CMP_RDOP returns one byte of CMPA (SEL = 0) or CMPB (SEL = 1), zero-extended, and changes no
state. -/
def Obligations.RdopReturnsOperandByte : Prop :=
  (∀ k : DigestIdx, encode (.cmpRdop .cmpA k) = 0xD0000000#32 + k.setWidth 32 ∧
    encode (.cmpRdop .cmpB k) = 0xD0000100#32 + k.setWidth 32) ∧
  (∀ w : Word, opField w = 0xD → (field w 9 19 ≠ 0 ∨ field w 5 3 ≠ 0) → IllegalWord w) ∧
  (∀ (s : State) (k : DigestIdx),
    exec (.cmpRdop .cmpA k) s =
      .next (completed s s.block ((s.block.cmpA.toList.getD k.toNat 0).setWidth 32)) ∧
    exec (.cmpRdop .cmpB k) s =
      .next (completed s s.block ((s.block.cmpB.toList.getD k.toNat 0).setWidth 32))) ∧
  (∀ (sel : OperandReg) (k : DigestIdx),
    exec (.cmpRdop sel k) State.reset = .next (completed State.reset State.reset.block 0))

/-- R104: RD_SCORE returns SCORE, sign-extended, and changes no state; it returns 0 after reset, and a
rejected CMP_RUN leaves what it returns unchanged. -/
def Obligations.RdScoreReturnsScore : Prop :=
  encode .rdScore = 0xE0000000 ∧
  (∀ w : Word, opField w = 0xE → w ≠ 0xE0000000 → IllegalWord w) ∧
  (∀ s : State, ∃ v : Word, exec .rdScore s = .next (completed s s.block v) ∧
    v.toInt = s.block.score.toInt) ∧
  exec .rdScore State.reset = .next (completed State.reset State.reset.block 0) ∧
  (∀ (s : State) (thr : Nine), ¬ (-128 ≤ thr.toInt ∧ thr.toInt ≤ 128) →
    ∃ t : State, exec (.cmpRunThr thr) s = .next t ∧ t.block.score = s.block.score)

/-! Control and status commands -/

/-- R105: NOP changes no state and responds 0; every other word of opcode 0 is illegal. -/
def Obligations.NopDoesNothing : Prop :=
  encode .nop = 0x00000000 ∧
  (∀ w : Word, opField w = 0x0 → w ≠ 0x00000000 → IllegalWord w) ∧
  (∀ s : State, exec .nop s = .next (completed s s.block 0))

/-- R106, R35, R28: RD_STATUS changes no state and returns the STATUS word, field by field, with every
reserved bit 0; ASTATE is 2 if FIN, else 0 if NUM_CHAR = 0, else 1. -/
def Obligations.StatusWordFields : Prop :=
  encode .rdStatus = 0xB0000000 ∧
  (∀ w : Word, opField w = 0xB → w ≠ 0xB0000000 → IllegalWord w) ∧
  (∀ s : State, ∃ v : Word, exec .rdStatus s = .next (completed s s.block v) ∧
    v.extractLsb' 0 2 = (if s.block.fin then 2#2 else if s.block.numChar.toNat = 0 then 0#2 else 1#2) ∧
    v.getLsbD 2 = s.block.ee ∧ v.getLsbD 3 = false ∧ v.getLsbD 4 = s.block.err ∧
    v.extractLsb' 5 3 = 0 ∧ v.extractLsb' 8 4 = s.block.errCode ∧ v.extractLsb' 12 4 = 0 ∧
    v.extractLsb' 16 3 = s.block.wlen ∧ v.extractLsb' 19 13 = 0) ∧
  exec .rdStatus State.reset = .next (completed State.reset State.reset.block 0)

/-- R107: ST_CLEAR clears ERR and ERRCODE and nothing else; with ERR = 0 (in a reachable state) it
changes nothing. -/
def Obligations.StClearClearsErrorRecord : Prop :=
  encode .stClear = 0xC0000000 ∧
  (∀ w : Word, opField w = 0xC → w ≠ 0xC0000000 → IllegalWord w) ∧
  (∀ s : State, exec .stClear s = .next (completed s { s.block with err := false, errCode := 0 } 0)) ∧
  (∀ s : State, s.Inv → s.block.err = false → exec .stClear s = .next (completed s s.block 0))

/-! Errors and the whole machine -/

/-- R124: every command either completes or is rejected with a code 1 to 3, as is every word that is no
command; a rejection sets ERR, keeps the first code, responds (1, code) and changes no other state; and
ERR and ERRCODE change nothing of what a command does or answers, RD_STATUS's answer apart. -/
def Obligations.RejectionsArePrecise : Prop :=
  (∀ w : Word, (∃ e, decode w = .error e) → IllegalWord w) ∧
  (∀ (i : Instr) (s : State),
    (∃ (b : Block s.cfg.W) (v : Word), exec i s = .next (completed s b v)) ∨
    (∃ code ∈ [1#4, 2#4, 3#4], exec i s = .next (rejected s code))) ∧
  (∀ (i : Instr) (s : State) (err : Bool) (code : BitVec 4), i ≠ .rdStatus →
    ∃ (b b' : Block s.cfg.W) (r : Response),
      exec i s = .next { s with block := b, responses := s.responses ++ [r] } ∧
      exec i { s with block := { s.block with err := err, errCode := code } } =
        .next { s with block := b', responses := s.responses ++ [r] } ∧
      b' = { b with err := b'.err, errCode := b'.errCode })

/-- R34, R127: ERR is set by a rejection and by nothing else; ERRCODE keeps the first error; ST_CLEAR
clears both and no other command clears either; both are 0 after reset. -/
def Obligations.ErrorRecordIsSticky : Prop :=
  (∀ w : Word, (∃ e, decode w = .error e) → IllegalWord w) ∧
  (∀ (i : Instr) (s : State), ∃ t : State, exec i s = .next t ∧
    (s.block.err = true → i ≠ .stClear → t.block.err = true ∧ t.block.errCode = s.block.errCode) ∧
    (s.block.err = false →
      (t.block.err = false ∧ (i ≠ .stClear → t.block.errCode = s.block.errCode) ∧
        ∃ v, t.responses = s.responses ++ [⟨false, v⟩]) ∨
      (t.block.err = true ∧ t.responses = s.responses ++ [⟨true, t.block.errCode.setWidth 32⟩])) ∧
    (i = .stClear → t.block.err = false ∧ t.block.errCode = 0)) ∧
  State.reset.block.err = false ∧ State.reset.block.errCode = 0

/-- 10_state.md section 1, the column "written by": which commands may write which piece of state. Every
other command leaves it as it was. -/
def Obligations.StateWrittenOnlyByItsCommands : Prop :=
  ∀ (i : Instr) (s : State), ∃ (b : Block s.cfg.W) (r : Response),
    exec i s = .next { s with block := b, responses := s.responses ++ [r] } ∧
    ((∀ c, i ≠ .accIngest c) → i ≠ .accClear →
      b.w0 = s.block.w0 ∧ b.w1 = s.block.w1 ∧ b.w2 = s.block.w2 ∧ b.w3 = s.block.w3 ∧
      b.wlen = s.block.wlen ∧ b.numChar = s.block.numChar ∧ b.hist = s.block.hist) ∧
    ((∀ c, i ≠ .accIngest c) → i ≠ .accClear → i.finalizes = false → b.fin = s.block.fin) ∧
    (i ≠ .accClear → i.finalizes = false → b.digest = s.block.digest) ∧
    ((∀ k v, i ≠ .cmpLda k v) → i ≠ .cmpCpya → b.cmpA = s.block.cmpA) ∧
    ((∀ k v, i ≠ .cmpLdb k v) → i ≠ .cmpCpyb → b.cmpB = s.block.cmpB) ∧
    (i ≠ .cmpRun → (∀ thr, i ≠ .cmpRunThr thr) → b.score = s.block.score ∧ b.ee = s.block.ee) ∧
    (r.rerr = false → i ≠ .stClear → b.err = s.block.err ∧ b.errCode = s.block.errCode)

/-! The host side -/

/-- R114, R115: the host's hex text of a digest has 64 characters, and parsing it gives the digest
back. -/
def Obligations.HexTextRoundTrip : Prop :=
  ∀ d : Digest, (hexDigest d).length = 64 ∧ parseHexDigest (hexDigest d) = .ok d

/-- R115: the host's hex parser accepts exactly the strings of 64 hex characters, as the digest whose
lowercase text is the string in lowercase, and gives any other string InvalidDigestFormat. -/
def Obligations.HexParserAcceptsExactly : Prop :=
  ∀ cs : List Char,
    (if cs.length = 64 ∧ (∀ c ∈ cs, ('0' ≤ c ∧ c ≤ '9') ∨ ('a' ≤ c ∧ c ≤ 'f') ∨ ('A' ≤ c ∧ c ≤ 'F'))
      then ∃ d, parseHexDigest cs = .ok d ∧ hexDigest d = cs.map Char.toLower
      else parseHexDigest cs = .error .invalidDigestFormat)

/-- R115: a raw digest is accepted exactly if it has 32 entries, each in 0..255, and its entries are
then the digest's bytes, in order; any other gets InvalidDigestFormat. -/
def Obligations.RawParserAcceptsExactly : Prop :=
  ∀ ns : List Int,
    (if ns.length = 32 ∧ (∀ n ∈ ns, 0 ≤ n ∧ n ≤ 255)
      then ∃ d, parseRawDigest ns = .ok d ∧ d.toList.map (fun x => (x.toNat : Int)) = ns
      else parseRawDigest ns = .error .invalidDigestFormat)

/-- R113: the digest read-out is ACC_RDDIG 0 to ACC_RDDIG 31, and the 32 responses are the bytes of the
digest, which the first of them finalizes if it was not finalized. -/
def Obligations.ReadoutReturnsDigest : Prop :=
  readDigest.length = 32 ∧
  (∀ k : Fin 32, readDigest[k.val]? = some (.accRddig (BitVec.ofNat 5 k.val))) ∧
  ∀ s : State, ∃ (t : State) (rs : List Response),
    execAll readDigest s = .next t ∧ t.responses = s.responses ++ rs ∧
    digestOfResponses rs = .ok t.block.digest.toList ∧ t.block.fin = true ∧
    (s.block.fin = false → t.block.digest = digitize s.block.hist s.block.numChar.toNat) ∧
    (s.block.fin = true → t.block.digest = s.block.digest)

/-- R116: comparing two raw digests through the driver loads both operands and returns the score with
the threshold's early exit, from any state of the block. -/
def Obligations.CompareThroughDriver : Prop :=
  ∀ (s : State) (a b : Digest) (t : Option Int) (checks : Bool), (∀ x ∈ t, -128 ≤ x ∧ x ≤ 128) →
    ∃ (is : List Instr) (u : State) (v : Word) (rs : List Response),
      compareCommands (.raw (a.toList.map fun x => (x.toNat : Int)))
        (.hex (hexDigest b)) t checks = .ok is ∧
      execAll is s = .next u ∧ u.responses = s.responses ++ rs ++ [⟨false, v⟩] ∧
      compareValue ⟨false, v⟩ = .ok (early (distance a b) t).1 ∧
      u.block.cmpA = a ∧ u.block.cmpB = b ∧ u.block.ee = (early (distance a b) t).2

/-- R109, R113, R116, R117: the driver checks RERR before it uses RDATA. A response with RERR = 1 is no
score and no digest byte; responses that all have RERR = 0 give their low bytes. A threshold outside
[-128, 128] that a host does not check is rejected by the block, which leaves SCORE and EE as they were,
and the driver reports InvalidThreshold; a host that checks reports it itself, and then issues no
command at all, operand loads included, which is the model's choice (log entry 21). -/
def Obligations.DriverChecksRerr : Prop :=
  (∀ v : Word, ∃ e, compareValue ⟨true, v⟩ = .error e) ∧
  (∀ rs : List Response, (∃ r ∈ rs, r.rerr = true) → ∃ e, digestOfResponses rs = .error e) ∧
  (∀ rs : List Response, (∀ r ∈ rs, r.rerr = false) →
    digestOfResponses rs = .ok (rs.map fun r => r.rdata.setWidth 8)) ∧
  (∀ (s : State) (a b : Digest) (t : Int), -256 ≤ t → t ≤ 255 → ¬ (-128 ≤ t ∧ t ≤ 128) →
    ∃ (is : List Instr) (u : State) (rs : List Response) (r : Response),
      compareCommands (.hex (hexDigest a)) (.hex (hexDigest b)) (some t) false = .ok is ∧
      execAll is s = .next u ∧ u.responses = s.responses ++ rs ++ [r] ∧ r.rerr = true ∧
      compareValue r = .error (.kind .invalidThreshold) ∧
      u.block.score = s.block.score ∧ u.block.ee = s.block.ee ∧
      compareCommands (.hex (hexDigest a)) (.hex (hexDigest b)) (some t) true = .error .invalidThreshold)

/-- R72: the assembler reads each operand's value and refuses one out of range rather than truncate it.
For every number, in decimal or hex: a byte is accepted in 0..255, an index in 0..31, a threshold in
-128..128, and the accepted command holds that number; outside it the line is refused. A character
literal is its ASCII code, for a byte operand only. The commands without operands are read as they are
written, a comment changes nothing, and whatever is accepted is well formed, a term of the model's own
for the operands R72 accepts (log entry 16). The blanks are those of log entry 14. -/
def Obligations.AssembledCommandsWellFormed : Prop :=
  (∀ (line : List Char) (i : Instr), assembleLine line = some (some i) → i.wellFormed = true) ∧
  (∀ p ∈ [("NOP", Instr.nop), ("ACC_CLEAR", .accClear), ("ACC_FINALIZE", .accFinalize),
      ("ACC_RDCNT", .accRdcnt), ("CMP_CPYA", .cmpCpya), ("CMP_CPYB", .cmpCpyb), ("CMP_RUN", .cmpRun),
      ("RD_STATUS", .rdStatus), ("ST_CLEAR", .stClear), ("RD_SCORE", .rdScore)],
    assembleLine p.1.toList = some (some p.2)) ∧
  (∀ v : Int,
    (if 0 ≤ v ∧ v ≤ 255 then ∃ c : Byte, (c.toNat : Int) = v ∧
        assembleLine (asmLine "ACC_INGEST" [decimalText v]) = some (some (.accIngest c))
      else assembleLine (asmLine "ACC_INGEST" [decimalText v]) = none) ∧
    (if 0 ≤ v ∧ v ≤ 31 then ∃ k : DigestIdx, (k.toNat : Int) = v ∧
        assembleLine (asmLine "ACC_RDDIG" [decimalText v]) = some (some (.accRddig k)) ∧
        assembleLine (asmLine "CMP_RDOP" [['A'], decimalText v]) = some (some (.cmpRdop .cmpA k)) ∧
        assembleLine (asmLine "CMP_RDOP" [['B'], decimalText v]) = some (some (.cmpRdop .cmpB k))
      else assembleLine (asmLine "ACC_RDDIG" [decimalText v]) = none ∧
        assembleLine (asmLine "CMP_RDOP" [['A'], decimalText v]) = none ∧
        assembleLine (asmLine "CMP_RDOP" [['B'], decimalText v]) = none) ∧
    (if -128 ≤ v ∧ v ≤ 128 then ∃ thr : Nine, thr.toInt = v ∧
        assembleLine (asmLine "CMP_RUN" [decimalText v]) = some (some (.cmpRunThr thr))
      else assembleLine (asmLine "CMP_RUN" [decimalText v]) = none)) ∧
  (∀ u v : Int,
    (if (0 ≤ u ∧ u ≤ 31) ∧ (0 ≤ v ∧ v ≤ 255) then
        ∃ (k : DigestIdx) (c : Byte), (k.toNat : Int) = u ∧ (c.toNat : Int) = v ∧
          assembleLine (asmLine "CMP_LDA" [decimalText u, decimalText v]) = some (some (.cmpLda k c)) ∧
          assembleLine (asmLine "CMP_LDB" [decimalText u, decimalText v]) = some (some (.cmpLdb k c))
      else assembleLine (asmLine "CMP_LDA" [decimalText u, decimalText v]) = none ∧
        assembleLine (asmLine "CMP_LDB" [decimalText u, decimalText v]) = none)) ∧
  (∀ n : Nat, ∀ mnemonic ∈ ["ACC_INGEST", "ACC_RDDIG", "CMP_RUN"],
    assembleLine (asmLine mnemonic [hexText n]) = assembleLine (asmLine mnemonic [decimalText n])) ∧
  (∀ c : Char, c.toNat < 128 →
    (∃ b : Byte, b.toNat = c.toNat ∧
      assembleLine (asmLine "ACC_INGEST" [charText c]) = some (some (.accIngest b))) ∧
    assembleLine (asmLine "ACC_RDDIG" [charText c]) = none ∧
    assembleLine (asmLine "CMP_RUN" [charText c]) = none) ∧
  (∀ line comment : List Char, quoteChar ∉ line →
    assembleLine (line ++ commentChar :: comment) = assembleLine line)
end

