-- ==== Sys2Proof/Laws/Assembler.lean ====
section
/-!
SUPPORT. What the assembler's parts do with the texts of 30_encoding.md R72: the value of a numeral, the
operand a text is read as, and how a line's operands are cut apart.
-/

namespace Sys2Proof.Machine

/-- Decimal digits are read back as their number. -/
theorem decimalValue_toDigits (n : Nat) : decimalValue (Nat.toDigits 10 n) = some n := by
  have hne : (Nat.toDigits 10 n).isEmpty = false := by simp [Nat.toDigits_ne_nil]
  have hall : (Nat.toDigits 10 n).all Char.isDigit = true :=
    List.all_eq_true.mpr fun _ h => Nat.isDigit_of_mem_toDigits (by decide) (by decide) h
  simp only [decimalValue, hne, hall, Bool.not_true, Bool.or_self, Bool.false_eq_true, if_false]
  exact congrArg some (Nat.ofDigitChars_eq_foldl.symm.trans Nat.ofDigitChars_ten_toDigits)

/-- A hex digit is read back as its value. -/
theorem hexValue_digitChar : ∀ d < 16, (hexValue (Nat.digitChar d)).map BitVec.toNat = some d := by decide

/-- One more hex digit. -/
theorem hexStep_digitChar (n d : Nat) (hd : d < 16) : hexStep (some n) (Nat.digitChar d) = some (16 * n + d) := by
  obtain ⟨b, hb, hbd⟩ := Option.map_eq_some_iff.mp (hexValue_digitChar d hd)
  simp [hexStep, hb, hbd]

/-- Hex digits are read back as their number. -/
theorem hexNumeral_toDigits (n : Nat) : hexNumeral (Nat.toDigits 16 n) = some n := by
  have hne : (Nat.toDigits 16 n).isEmpty = false := by simp [Nat.toDigits_ne_nil]
  simp only [hexNumeral, hne, Bool.false_eq_true, if_false]
  clear hne
  induction n using Nat.strongRecOn with
  | ind n ih =>
    rw [Nat.toDigits_eq_if (by decide)]
    split
    · next h => simp [hexStep_digitChar 0 n h]
    · next h =>
      rw [List.foldl_append, ih (n / 16) (by omega), List.foldl_cons, List.foldl_nil,
        hexStep_digitChar _ _ (Nat.mod_lt n (by decide)), Nat.div_add_mod]

/-- A decimal text is its number. -/
theorem parseOperand_decimalText (v : Int) : parseOperand (decimalText v) = .num v := by
  unfold decimalText
  split
  · next h => simp only [parseOperand, decimalValue_toDigits]; congr 1; omega
  · next h =>
    have hd : ∀ c ∈ Nat.toDigits 10 v.natAbs, c.isDigit = true := fun _ h =>
      Nat.isDigit_of_mem_toDigits (by decide) (by decide) h
    have hv := decimalValue_toDigits v.natAbs
    generalize Nat.toDigits 10 v.natAbs = ds at hd hv
    unfold parseOperand
    split
    · exact absurd (hd 'x' (by simp)) (by decide)
    · exact absurd (hd '-' (by simp)) (by decide)
    · next q c q' =>
      rw [if_neg]
      · simp only [hv]; congr 1; omega
      · rintro ⟨rfl, -, -⟩
        exact absurd (hd quoteChar (by simp)) (by decide)
    · simp only [hv]; congr 1; omega

/-- A hex text is its number. -/
theorem parseOperand_hexText (n : Nat) : parseOperand (hexText n) = .num n := by
  simp only [hexText, parseOperand, hexNumeral_toDigits]

/-- A character literal is its ASCII code. -/
theorem parseOperand_charText (c : Char) (h : c.toNat < 128) : parseOperand (charText c) = .char c.toNat := by
  have h0 : quoteChar ≠ '0' := by decide
  have h1 : quoteChar ≠ '-' := by decide
  unfold parseOperand charText
  split
  · next h' => exact absurd (List.cons.inj h').1 h0
  · next h' => exact absurd (List.cons.inj h').1 h1
  · next h' => cases h'; simp [h]
  · next h' => exact absurd rfl (h' quoteChar c quoteChar)

/-- Characters that are no quote, comment or comma go into the current piece. -/
theorem splitOperands_plain (cs rest acc : List Char)
    (h : ∀ c ∈ cs, c ≠ quoteChar ∧ c ≠ commentChar ∧ c ≠ commaChar) :
    splitOperands 0 acc (cs ++ rest) = splitOperands 0 (cs.reverse ++ acc) rest := by
  induction cs generalizing acc with
  | nil => rfl
  | cons c cs ih =>
    obtain ⟨h1, h2, h3⟩ := h c (by simp)
    simp [splitOperands, h1, h2, h3, ih (c :: acc) fun c' hc => h c' (by simp [hc])]

end Sys2Proof.Machine
end

