-- ==== Sys2Proof/Laws/State.lean ====
section
/-!
SUPPORT. One lemma per field per update of the block, and of the state with its ports, so that no later
proof unfolds a record update.
-/

namespace Sys2Proof.Machine

variable {W : Nat} (b : Block W)

/-! The error record (R124). -/

@[simp] theorem Block.recordError_w0 (e : ErrorCode) : (b.recordError e).w0 = b.w0 := rfl
@[simp] theorem Block.recordError_w1 (e : ErrorCode) : (b.recordError e).w1 = b.w1 := rfl
@[simp] theorem Block.recordError_w2 (e : ErrorCode) : (b.recordError e).w2 = b.w2 := rfl
@[simp] theorem Block.recordError_w3 (e : ErrorCode) : (b.recordError e).w3 = b.w3 := rfl
@[simp] theorem Block.recordError_wlen (e : ErrorCode) : (b.recordError e).wlen = b.wlen := rfl
@[simp] theorem Block.recordError_numChar (e : ErrorCode) : (b.recordError e).numChar = b.numChar := rfl
@[simp] theorem Block.recordError_hist (e : ErrorCode) : (b.recordError e).hist = b.hist := rfl
@[simp] theorem Block.recordError_fin (e : ErrorCode) : (b.recordError e).fin = b.fin := rfl
@[simp] theorem Block.recordError_digest (e : ErrorCode) : (b.recordError e).digest = b.digest := rfl
@[simp] theorem Block.recordError_cmpA (e : ErrorCode) : (b.recordError e).cmpA = b.cmpA := rfl
@[simp] theorem Block.recordError_cmpB (e : ErrorCode) : (b.recordError e).cmpB = b.cmpB := rfl
@[simp] theorem Block.recordError_score (e : ErrorCode) : (b.recordError e).score = b.score := rfl
@[simp] theorem Block.recordError_ee (e : ErrorCode) : (b.recordError e).ee = b.ee := rfl
@[simp] theorem Block.recordError_err (e : ErrorCode) : (b.recordError e).err = true := rfl
@[simp] theorem Block.recordError_errCode (e : ErrorCode) : (b.recordError e).errCode = if b.err then b.errCode else e.code := rfl

/-! ST_CLEAR (R107). -/

@[simp] theorem Block.clearError_w0 : (b.clearError).w0 = b.w0 := rfl
@[simp] theorem Block.clearError_w1 : (b.clearError).w1 = b.w1 := rfl
@[simp] theorem Block.clearError_w2 : (b.clearError).w2 = b.w2 := rfl
@[simp] theorem Block.clearError_w3 : (b.clearError).w3 = b.w3 := rfl
@[simp] theorem Block.clearError_wlen : (b.clearError).wlen = b.wlen := rfl
@[simp] theorem Block.clearError_numChar : (b.clearError).numChar = b.numChar := rfl
@[simp] theorem Block.clearError_hist : (b.clearError).hist = b.hist := rfl
@[simp] theorem Block.clearError_fin : (b.clearError).fin = b.fin := rfl
@[simp] theorem Block.clearError_digest : (b.clearError).digest = b.digest := rfl
@[simp] theorem Block.clearError_cmpA : (b.clearError).cmpA = b.cmpA := rfl
@[simp] theorem Block.clearError_cmpB : (b.clearError).cmpB = b.cmpB := rfl
@[simp] theorem Block.clearError_score : (b.clearError).score = b.score := rfl
@[simp] theorem Block.clearError_ee : (b.clearError).ee = b.ee := rfl
@[simp] theorem Block.clearError_err : (b.clearError).err = false := rfl
@[simp] theorem Block.clearError_errCode : (b.clearError).errCode = 0 := rfl

/-! ACC_CLEAR (R85). -/

@[simp] theorem Block.clearAccumulator_w0 : (b.clearAccumulator).w0 = 0 := rfl
@[simp] theorem Block.clearAccumulator_w1 : (b.clearAccumulator).w1 = 0 := rfl
@[simp] theorem Block.clearAccumulator_w2 : (b.clearAccumulator).w2 = 0 := rfl
@[simp] theorem Block.clearAccumulator_w3 : (b.clearAccumulator).w3 = 0 := rfl
@[simp] theorem Block.clearAccumulator_wlen : (b.clearAccumulator).wlen = 0 := rfl
@[simp] theorem Block.clearAccumulator_numChar : (b.clearAccumulator).numChar = 0 := rfl
@[simp] theorem Block.clearAccumulator_hist : (b.clearAccumulator).hist = Vector.replicate 256 0 := rfl
@[simp] theorem Block.clearAccumulator_fin : (b.clearAccumulator).fin = false := rfl
@[simp] theorem Block.clearAccumulator_digest : (b.clearAccumulator).digest = Vector.replicate 32 0 := rfl
@[simp] theorem Block.clearAccumulator_cmpA : (b.clearAccumulator).cmpA = b.cmpA := rfl
@[simp] theorem Block.clearAccumulator_cmpB : (b.clearAccumulator).cmpB = b.cmpB := rfl
@[simp] theorem Block.clearAccumulator_score : (b.clearAccumulator).score = b.score := rfl
@[simp] theorem Block.clearAccumulator_ee : (b.clearAccumulator).ee = b.ee := rfl
@[simp] theorem Block.clearAccumulator_err : (b.clearAccumulator).err = b.err := rfl
@[simp] theorem Block.clearAccumulator_errCode : (b.clearAccumulator).errCode = b.errCode := rfl

/-! One byte in (R86). -/

@[simp] theorem Block.ingest_w0 (c : Byte) : (b.ingest c).w0 = c := rfl
@[simp] theorem Block.ingest_w1 (c : Byte) : (b.ingest c).w1 = b.w0 := rfl
@[simp] theorem Block.ingest_w2 (c : Byte) : (b.ingest c).w2 = b.w1 := rfl
@[simp] theorem Block.ingest_w3 (c : Byte) : (b.ingest c).w3 = b.w2 := rfl
@[simp] theorem Block.ingest_wlen (c : Byte) : (b.ingest c).wlen = growWindow b.wlen := rfl
@[simp] theorem Block.ingest_numChar (c : Byte) : (b.ingest c).numChar = b.numChar + 1 := rfl
@[simp] theorem Block.ingest_hist (c : Byte) : (b.ingest c).hist = bumpBuckets b.hist (b.bucketsFor c) := rfl
@[simp] theorem Block.ingest_fin (c : Byte) : (b.ingest c).fin = false := rfl
@[simp] theorem Block.ingest_digest (c : Byte) : (b.ingest c).digest = b.digest := rfl
@[simp] theorem Block.ingest_cmpA (c : Byte) : (b.ingest c).cmpA = b.cmpA := rfl
@[simp] theorem Block.ingest_cmpB (c : Byte) : (b.ingest c).cmpB = b.cmpB := rfl
@[simp] theorem Block.ingest_score (c : Byte) : (b.ingest c).score = b.score := rfl
@[simp] theorem Block.ingest_ee (c : Byte) : (b.ingest c).ee = b.ee := rfl
@[simp] theorem Block.ingest_err (c : Byte) : (b.ingest c).err = b.err := rfl
@[simp] theorem Block.ingest_errCode (c : Byte) : (b.ingest c).errCode = b.errCode := rfl

/-! CMPA written (R96). -/

@[simp] theorem Block.loadA_w0 (k : DigestIdx) (v : Byte) : (b.loadA k v).w0 = b.w0 := rfl
@[simp] theorem Block.loadA_w1 (k : DigestIdx) (v : Byte) : (b.loadA k v).w1 = b.w1 := rfl
@[simp] theorem Block.loadA_w2 (k : DigestIdx) (v : Byte) : (b.loadA k v).w2 = b.w2 := rfl
@[simp] theorem Block.loadA_w3 (k : DigestIdx) (v : Byte) : (b.loadA k v).w3 = b.w3 := rfl
@[simp] theorem Block.loadA_wlen (k : DigestIdx) (v : Byte) : (b.loadA k v).wlen = b.wlen := rfl
@[simp] theorem Block.loadA_numChar (k : DigestIdx) (v : Byte) : (b.loadA k v).numChar = b.numChar := rfl
@[simp] theorem Block.loadA_hist (k : DigestIdx) (v : Byte) : (b.loadA k v).hist = b.hist := rfl
@[simp] theorem Block.loadA_fin (k : DigestIdx) (v : Byte) : (b.loadA k v).fin = b.fin := rfl
@[simp] theorem Block.loadA_digest (k : DigestIdx) (v : Byte) : (b.loadA k v).digest = b.digest := rfl
@[simp] theorem Block.loadA_cmpA (k : DigestIdx) (v : Byte) : (b.loadA k v).cmpA = writeByte b.cmpA k v := rfl
@[simp] theorem Block.loadA_cmpB (k : DigestIdx) (v : Byte) : (b.loadA k v).cmpB = b.cmpB := rfl
@[simp] theorem Block.loadA_score (k : DigestIdx) (v : Byte) : (b.loadA k v).score = b.score := rfl
@[simp] theorem Block.loadA_ee (k : DigestIdx) (v : Byte) : (b.loadA k v).ee = b.ee := rfl
@[simp] theorem Block.loadA_err (k : DigestIdx) (v : Byte) : (b.loadA k v).err = b.err := rfl
@[simp] theorem Block.loadA_errCode (k : DigestIdx) (v : Byte) : (b.loadA k v).errCode = b.errCode := rfl

/-! CMPB written (R97). -/

@[simp] theorem Block.loadB_w0 (k : DigestIdx) (v : Byte) : (b.loadB k v).w0 = b.w0 := rfl
@[simp] theorem Block.loadB_w1 (k : DigestIdx) (v : Byte) : (b.loadB k v).w1 = b.w1 := rfl
@[simp] theorem Block.loadB_w2 (k : DigestIdx) (v : Byte) : (b.loadB k v).w2 = b.w2 := rfl
@[simp] theorem Block.loadB_w3 (k : DigestIdx) (v : Byte) : (b.loadB k v).w3 = b.w3 := rfl
@[simp] theorem Block.loadB_wlen (k : DigestIdx) (v : Byte) : (b.loadB k v).wlen = b.wlen := rfl
@[simp] theorem Block.loadB_numChar (k : DigestIdx) (v : Byte) : (b.loadB k v).numChar = b.numChar := rfl
@[simp] theorem Block.loadB_hist (k : DigestIdx) (v : Byte) : (b.loadB k v).hist = b.hist := rfl
@[simp] theorem Block.loadB_fin (k : DigestIdx) (v : Byte) : (b.loadB k v).fin = b.fin := rfl
@[simp] theorem Block.loadB_digest (k : DigestIdx) (v : Byte) : (b.loadB k v).digest = b.digest := rfl
@[simp] theorem Block.loadB_cmpA (k : DigestIdx) (v : Byte) : (b.loadB k v).cmpA = b.cmpA := rfl
@[simp] theorem Block.loadB_cmpB (k : DigestIdx) (v : Byte) : (b.loadB k v).cmpB = writeByte b.cmpB k v := rfl
@[simp] theorem Block.loadB_score (k : DigestIdx) (v : Byte) : (b.loadB k v).score = b.score := rfl
@[simp] theorem Block.loadB_ee (k : DigestIdx) (v : Byte) : (b.loadB k v).ee = b.ee := rfl
@[simp] theorem Block.loadB_err (k : DigestIdx) (v : Byte) : (b.loadB k v).err = b.err := rfl
@[simp] theorem Block.loadB_errCode (k : DigestIdx) (v : Byte) : (b.loadB k v).errCode = b.errCode := rfl

/-! CMP_RUN (R100). -/

@[simp] theorem Block.compare_w0 (t : Option Int) : (b.compare t).w0 = b.w0 := rfl
@[simp] theorem Block.compare_w1 (t : Option Int) : (b.compare t).w1 = b.w1 := rfl
@[simp] theorem Block.compare_w2 (t : Option Int) : (b.compare t).w2 = b.w2 := rfl
@[simp] theorem Block.compare_w3 (t : Option Int) : (b.compare t).w3 = b.w3 := rfl
@[simp] theorem Block.compare_wlen (t : Option Int) : (b.compare t).wlen = b.wlen := rfl
@[simp] theorem Block.compare_numChar (t : Option Int) : (b.compare t).numChar = b.numChar := rfl
@[simp] theorem Block.compare_hist (t : Option Int) : (b.compare t).hist = b.hist := rfl
@[simp] theorem Block.compare_fin (t : Option Int) : (b.compare t).fin = b.fin := rfl
@[simp] theorem Block.compare_digest (t : Option Int) : (b.compare t).digest = b.digest := rfl
@[simp] theorem Block.compare_cmpA (t : Option Int) : (b.compare t).cmpA = b.cmpA := rfl
@[simp] theorem Block.compare_cmpB (t : Option Int) : (b.compare t).cmpB = b.cmpB := rfl
@[simp] theorem Block.compare_score (t : Option Int) : (b.compare t).score = scoreBits (b.compareResult t).1 := rfl
@[simp] theorem Block.compare_ee (t : Option Int) : (b.compare t).ee = (b.compareResult t).2 := rfl
@[simp] theorem Block.compare_err (t : Option Int) : (b.compare t).err = b.err := rfl
@[simp] theorem Block.compare_errCode (t : Option Int) : (b.compare t).errCode = b.errCode := rfl

/-! Finalize (R80): only DIGEST and FIN may change. -/

@[simp] theorem Block.finalize_w0 : b.finalize.w0 = b.w0 := by unfold Block.finalize; split <;> rfl
@[simp] theorem Block.finalize_w1 : b.finalize.w1 = b.w1 := by unfold Block.finalize; split <;> rfl
@[simp] theorem Block.finalize_w2 : b.finalize.w2 = b.w2 := by unfold Block.finalize; split <;> rfl
@[simp] theorem Block.finalize_w3 : b.finalize.w3 = b.w3 := by unfold Block.finalize; split <;> rfl
@[simp] theorem Block.finalize_wlen : b.finalize.wlen = b.wlen := by unfold Block.finalize; split <;> rfl
@[simp] theorem Block.finalize_numChar : b.finalize.numChar = b.numChar := by unfold Block.finalize; split <;> rfl
@[simp] theorem Block.finalize_hist : b.finalize.hist = b.hist := by unfold Block.finalize; split <;> rfl
@[simp] theorem Block.finalize_cmpA : b.finalize.cmpA = b.cmpA := by unfold Block.finalize; split <;> rfl
@[simp] theorem Block.finalize_cmpB : b.finalize.cmpB = b.cmpB := by unfold Block.finalize; split <;> rfl
@[simp] theorem Block.finalize_score : b.finalize.score = b.score := by unfold Block.finalize; split <;> rfl
@[simp] theorem Block.finalize_ee : b.finalize.ee = b.ee := by unfold Block.finalize; split <;> rfl
@[simp] theorem Block.finalize_err : b.finalize.err = b.err := by unfold Block.finalize; split <;> rfl
@[simp] theorem Block.finalize_errCode : b.finalize.errCode = b.errCode := by unfold Block.finalize; split <;> rfl
@[simp] theorem Block.finalize_fin : b.finalize.fin = true := by
  unfold Block.finalize; split <;> simp_all
theorem Block.finalize_digest :
    b.finalize.digest = if b.fin then b.digest else digitize b.hist b.numChar.toNat := by
  unfold Block.finalize; split <;> rfl
theorem Block.finalize_of_fin (h : b.fin = true) : b.finalize = b := by simp [Block.finalize, h]
theorem Block.finalize_of_not_fin (h : b.fin = false) :
    b.finalize = { b with digest := digitize b.hist b.numChar.toNat, fin := true } := by
  simp [Block.finalize, h]
@[simp] theorem Block.finalize_finalize : b.finalize.finalize = b.finalize :=
  Block.finalize_of_fin _ (Block.finalize_fin b)

/-! copyA: finalize, then one operand (R98, R99). -/

@[simp] theorem Block.copyA_w0 : b.copyA.w0 = b.w0 := by simp [Block.copyA]
@[simp] theorem Block.copyA_w1 : b.copyA.w1 = b.w1 := by simp [Block.copyA]
@[simp] theorem Block.copyA_w2 : b.copyA.w2 = b.w2 := by simp [Block.copyA]
@[simp] theorem Block.copyA_w3 : b.copyA.w3 = b.w3 := by simp [Block.copyA]
@[simp] theorem Block.copyA_wlen : b.copyA.wlen = b.wlen := by simp [Block.copyA]
@[simp] theorem Block.copyA_numChar : b.copyA.numChar = b.numChar := by simp [Block.copyA]
@[simp] theorem Block.copyA_hist : b.copyA.hist = b.hist := by simp [Block.copyA]
@[simp] theorem Block.copyA_fin : b.copyA.fin = true := by simp [Block.copyA]
@[simp] theorem Block.copyA_digest : b.copyA.digest = b.finalize.digest := by simp [Block.copyA]
@[simp] theorem Block.copyA_cmpA : b.copyA.cmpA = b.finalize.digest := by simp [Block.copyA]
@[simp] theorem Block.copyA_cmpB : b.copyA.cmpB = b.cmpB := by simp [Block.copyA]
@[simp] theorem Block.copyA_score : b.copyA.score = b.score := by simp [Block.copyA]
@[simp] theorem Block.copyA_ee : b.copyA.ee = b.ee := by simp [Block.copyA]
@[simp] theorem Block.copyA_err : b.copyA.err = b.err := by simp [Block.copyA]
@[simp] theorem Block.copyA_errCode : b.copyA.errCode = b.errCode := by simp [Block.copyA]

/-! copyB: finalize, then one operand (R98, R99). -/

@[simp] theorem Block.copyB_w0 : b.copyB.w0 = b.w0 := by simp [Block.copyB]
@[simp] theorem Block.copyB_w1 : b.copyB.w1 = b.w1 := by simp [Block.copyB]
@[simp] theorem Block.copyB_w2 : b.copyB.w2 = b.w2 := by simp [Block.copyB]
@[simp] theorem Block.copyB_w3 : b.copyB.w3 = b.w3 := by simp [Block.copyB]
@[simp] theorem Block.copyB_wlen : b.copyB.wlen = b.wlen := by simp [Block.copyB]
@[simp] theorem Block.copyB_numChar : b.copyB.numChar = b.numChar := by simp [Block.copyB]
@[simp] theorem Block.copyB_hist : b.copyB.hist = b.hist := by simp [Block.copyB]
@[simp] theorem Block.copyB_fin : b.copyB.fin = true := by simp [Block.copyB]
@[simp] theorem Block.copyB_digest : b.copyB.digest = b.finalize.digest := by simp [Block.copyB]
@[simp] theorem Block.copyB_cmpA : b.copyB.cmpA = b.cmpA := by simp [Block.copyB]
@[simp] theorem Block.copyB_cmpB : b.copyB.cmpB = b.finalize.digest := by simp [Block.copyB]
@[simp] theorem Block.copyB_score : b.copyB.score = b.score := by simp [Block.copyB]
@[simp] theorem Block.copyB_ee : b.copyB.ee = b.ee := by simp [Block.copyB]
@[simp] theorem Block.copyB_err : b.copyB.err = b.err := by simp [Block.copyB]
@[simp] theorem Block.copyB_errCode : b.copyB.errCode = b.errCode := by simp [Block.copyB]

/-! The ports. -/

variable (s : State)

@[simp] theorem State.put_cfg (c : Block s.cfg.W) (r : Response) : (s.put c r).cfg = s.cfg := rfl
@[simp] theorem State.put_block (c : Block s.cfg.W) (r : Response) : (s.put c r).block = c := rfl
@[simp] theorem State.put_input (c : Block s.cfg.W) (r : Response) : (s.put c r).input = s.input := rfl
@[simp] theorem State.put_responses (c : Block s.cfg.W) (r : Response) :
    (s.put c r).responses = s.responses ++ [r] := rfl
@[simp] theorem State.presentNext_input (w : Word) :
    (s.presentNext w).input = .command w :: s.input := rfl

/-- A command that completes, in the terms claims use. -/
theorem State.put_ok (c : Block s.cfg.W) (v : Word) : s.put c (.ok v) = completed s c v := rfl

/-- A rejected command, in the terms claims use. -/
theorem State.put_error (e : ErrorCode) :
    s.put (s.block.recordError e) (.error e) = rejected s e.code := rfl

end Sys2Proof.Machine
end

