-- ==== Sys2Proof/Laws/Decode.lean ====
section
/-!
SUPPORT. The bits of a field and of a placed value: what encoder and decoder are made of.
-/

namespace Sys2Proof

/-- Bit `i` of a field is bit `lo + i` of the word. -/
theorem getElem_field (w : Word) (lo len i : Nat) (h : i < len) :
    (field w lo len)[i] = w.getLsbD (lo + i) := by
  simp [field]

/-- Bit `i` of a placed value is bit `i - lo` of the value. -/
theorem getElem_place {n : Nat} (lo : Nat) (v : BitVec n) (i : Nat) (h : i < 32) :
    (place lo v)[i] = (decide (lo ≤ i) && v.getLsbD (i - lo)) := by
  by_cases hl : lo ≤ i <;> simp [place, hl]

/-- The two fields that together are the whole word. -/
theorem eq_of_fields (w w' : Word) (hop : opField w = opField w') (h : field w 0 28 = field w' 0 28) :
    w = w' := by
  apply BitVec.eq_of_getLsbD_eq
  intro i hi
  rcases Nat.lt_or_ge i 28 with h28 | h28
  · have := congrArg (fun v : BitVec 28 => v[i]) h
    simpa [getElem_field] using this
  · have := congrArg (fun v : BitVec 4 => v[i - 28]) hop
    simpa [opField, getElem_field, show 28 + (i - 28) = i by omega] using this

end Sys2Proof
end

