-- ==== Sys2Proof/Laws/PerInstr.lean ====
section
/-!
SUPPORT. One statement per command, about its syntax: the word it is encoded to selects the row of the
opcode map it stands for (30_encoding.md R69).
-/

namespace Sys2Proof.Laws.EncodedRow

/-- The command's word selects the command's row (R69). -/
def Statement (i : Instr) : Prop := i.row.selects (encode i) = true

theorem nop : Statement .nop := by unfold Statement; decide
theorem accClear : Statement .accClear := by unfold Statement; decide
theorem accFinalize : Statement .accFinalize := by unfold Statement; decide
theorem accRdcnt : Statement .accRdcnt := by unfold Statement; decide
theorem cmpCpya : Statement .cmpCpya := by unfold Statement; decide
theorem cmpCpyb : Statement .cmpCpyb := by unfold Statement; decide
theorem cmpRun : Statement .cmpRun := by unfold Statement; decide
theorem rdStatus : Statement .rdStatus := by unfold Statement; decide
theorem stClear : Statement .stClear := by unfold Statement; decide
theorem rdScore : Statement .rdScore := by unfold Statement; decide

/-- A word made of an opcode and two operands selects a row if it does so bit by bit. -/
theorem selects_of_bits (r : OpcodeRow) (w : Word)
    (h : ∀ i, (hi : i < 32) → (w[i] && r.mask[i]) = r.pattern[i]) : r.selects w = true := by
  simp only [OpcodeRow.selects, beq_iff_eq]
  ext i hi
  simpa using h i hi

theorem accIngest (c : Byte) : Statement (.accIngest c) := by
  apply selects_of_bits
  intro i hi
  interval_cases i <;> simp [Instr.row, encode, getElem_place]

theorem accRddig (k : DigestIdx) : Statement (.accRddig k) := by
  apply selects_of_bits
  intro i hi
  interval_cases i <;> simp [Instr.row, encode, getElem_place]

theorem cmpLda (k : DigestIdx) (v : Byte) : Statement (.cmpLda k v) := by
  apply selects_of_bits
  intro i hi
  interval_cases i <;> simp [Instr.row, encode, getElem_place]

theorem cmpLdb (k : DigestIdx) (v : Byte) : Statement (.cmpLdb k v) := by
  apply selects_of_bits
  intro i hi
  interval_cases i <;> simp [Instr.row, encode, getElem_place]

theorem cmpRunThr (thr : Nine) : Statement (.cmpRunThr thr) := by
  apply selects_of_bits
  intro i hi
  interval_cases i <;> simp [Instr.row, encode, getElem_place]

theorem cmpRdop (sel : OperandReg) (k : DigestIdx) : Statement (.cmpRdop sel k) := by
  apply selects_of_bits
  intro i hi
  cases sel <;> interval_cases i <;> simp [Instr.row, encode, getElem_place, bitOfSel]

theorem reservedF (rest : BitVec 28) : Statement (.reservedF rest) := by
  apply selects_of_bits
  intro i hi
  interval_cases i <;> simp [Instr.row, reservedRow, encode, getElem_place]

end Sys2Proof.Laws.EncodedRow
end

