-- ==== Sys2Proof/Laws/Ops.lean ====
section
/-!
SUPPORT. One lemma per shared operation that says all it can do: how a step takes the host's act, how
a command ends, the histogram increments, one digest bit, one operand byte, and the ranges of the
datapath's values. Later proofs cite these and do not unfold the operations.
-/

namespace Sys2Proof.Machine

/-! Steps and answers. -/

/-- A step whose next act is a command word. -/
theorem step_of_command (s : State) (w : Word) (rest : List HostAct) (h : s.input = .command w :: rest) :
    step s = match decode w with
      | .ok i => exec i { s with input := rest }
      | .error e => State.rejectWord { s with input := rest } e := by
  cases hd : decode w <;> simp [step, State.takeAct, h, hd]

/-- A step whose next act is a reset. -/
theorem step_of_reset (s : State) (rest : List HostAct) (h : s.input = .reset :: rest) :
    step s = .next { s with input := rest, block := .reset s.cfg.W } := by
  simp only [step, State.takeAct, h, State.assertReset]

/-- A step with no act pending. -/
theorem step_of_nil (s : State) (h : s.input = []) : step s = .next s := by
  simp only [step, State.takeAct, h, State.wait]

/-- A word the decoder refuses is rejected with ILLEGAL_COMMAND, whichever check refused it. -/
theorem rejectWord_eq (s : State) (e : DecodeError) : s.rejectWord e = .next (rejected s 1) := by
  cases e <;> rfl

/-- Every command answers: a new block and one response, the input and the parameter untouched. -/
theorem exec_answers (i : Instr) (s : State) :
    ∃ (b : Block s.cfg.W) (r : Response), exec i s = .next (s.put b r) := by
  cases i with
  | accIngest c =>
    simp only [exec, execAccIngest]
    split
    · exact ⟨_, _, rfl⟩
    · exact ⟨_, _, rfl⟩
  | cmpRunThr thr =>
    simp only [exec, execCmpRunThr]
    split
    · exact ⟨_, _, rfl⟩
    · exact ⟨_, _, rfl⟩
  | _ => exact ⟨_, _, rfl⟩

/-- A sequence of commands runs its first part, then the rest from where that ended. -/
theorem execAll_append (is js : List Instr) (s t : State) (h : execAll is s = .next t) :
    execAll (is ++ js) s = execAll js t := by
  induction is generalizing s with
  | nil => cases h; rfl
  | cons i is ih =>
    obtain ⟨b, r, hb⟩ := exec_answers i s
    simp only [List.cons_append, execAll, hb] at h ⊢
    exact ih _ h

/-! The histogram. -/

/-- One increment: the bucket selected grows by 1 in its register, every other keeps its count. -/
theorem getElem_bumpBucket {w : Nat} (hist : Vector (BitVec w) 256) (i : Byte) (j : Nat) (hj : j < 256) :
    (bumpBucket hist i)[j] = if i.toNat = j then hist[j] + 1 else hist[j] := by
  unfold bumpBucket
  rw [Vector.getElem_set]
  split <;> simp_all

/-- A sequence of increments adds to each bucket the number of times it is selected, in a register of
fixed width (R88). -/
theorem bumpBuckets_toNat {w : Nat} (is : List Byte) (hist : Vector (BitVec w) 256) (j : Fin 256) :
    (bumpBuckets hist is)[j].toNat = (hist[j].toNat + is.count (BitVec.ofNat 8 j.val)) % 2 ^ w := by
  induction is generalizing hist with
  | nil => simp [bumpBuckets]
  | cons i is ih =>
    have step : bumpBuckets hist (i :: is) = bumpBuckets (bumpBucket hist i) is := rfl
    have key : (bumpBucket hist i)[j] = if i.toNat = j.val then hist[j] + 1 else hist[j] :=
      getElem_bumpBucket hist i j.val j.isLt
    have hi : i = BitVec.ofNat 8 j.val ↔ i.toNat = j.val := by
      constructor
      · rintro rfl; simp
      · intro h; rw [← h]; simp
    rw [step, ih, key, List.count_cons]
    by_cases h : i.toNat = j.val
    · have h' : (i == BitVec.ofNat 8 j.val) = true := by simpa using hi.mpr h
      rw [if_pos h, if_pos h']
      rcases Nat.eq_zero_or_pos w with rfl | hw
      · simp only [Nat.pow_zero, Nat.mod_one]
      · have one : (1 : BitVec w).toNat = 1 := by
          rw [BitVec.ofNat_eq_ofNat, BitVec.toNat_ofNat, Nat.mod_eq_of_lt (Nat.one_lt_two_pow (by omega))]
        rw [BitVec.toNat_add, Nat.mod_add_mod, one]
        congr 1
        omega
    · have h' : ¬ (i == BitVec.ofNat 8 j.val) = true := by simpa using fun e => h (hi.mp e)
      rw [if_neg h, if_neg h', Nat.add_zero]

/-! Digest bits and operand bytes. -/

/-- Setting one digest bit sets that bit and no other. -/
theorem getElem_setDigestBit (d : Digest) (i k : Nat) (hk : k < 32) :
    (setDigestBit d i)[k] = if digestByteOf i = k then d[k] ||| (1#8 <<< (i % 8)) else d[k] := by
  unfold setDigestBit
  rw [Vector.getElem_set]
  split <;> simp_all

/-- Writing one operand byte writes that byte and no other. -/
theorem getElem_writeByte (d : Digest) (k : DigestIdx) (v : Byte) (j : Nat) (hj : j < 32) :
    (writeByte d k v)[j] = if k.toNat = j then v else d[j] := by
  unfold writeByte
  rw [Vector.getElem_set]

/-- Reading an operand byte is reading the list of bytes at its index. -/
theorem readByte_eq (d : Digest) (k : DigestIdx) : readByte d k = d.toList.getD k.toNat 0 := by
  have hk : k.toNat < 32 := k.isLt
  simp [readByte, List.getD, hk]

/-! Ranges of the datapath's values. -/

/-- The window length after a byte (R24). -/
theorem growWindow_toNat (wlen : BitVec 3) : (growWindow wlen).toNat = min (wlen.toNat + 1) 4 := by
  have : min (wlen.toNat + 1) 4 < 8 := by omega
  simp [growWindow, Nat.mod_eq_of_lt this]

/-- A POPC entry is at most 8 (R39). -/
theorem popc_le (x : Byte) : (popc x).toNat ≤ 8 := by
  revert x; decide +kernel

/-- A sum of POPC entries is at most 8 per byte pair. -/
theorem popcSum_le (xs ys : List Byte) :
    (List.zipWith (fun x y => (popc (x ^^^ y)).toNat) xs ys).sum ≤ 8 * min xs.length ys.length := by
  induction xs generalizing ys with
  | nil => simp
  | cons x xs ih =>
    cases ys with
    | nil => simp
    | cons y ys =>
      have h1 := ih ys
      have h2 := popc_le (x ^^^ y)
      simp only [List.zipWith_cons_cons, List.sum_cons, List.length_cons]
      omega

/-- The distance of two digests is at most 256 (R81). -/
theorem distance_le (a b : Digest) : distance a b ≤ 256 := by
  have h := popcSum_le a.toList b.toList
  simpa [distance] using h

/-- SCORE holds a score in range exactly (R32). -/
theorem scoreBits_toInt (r : Int) (h1 : -128 ≤ r) (h2 : r ≤ 128) : (scoreBits r).toInt = r := by
  unfold scoreBits
  rw [BitVec.toInt_ofInt]
  apply Int.bmod_eq_of_le <;> norm_num <;> omega

/-- Sign extension keeps the value (R16). -/
theorem sext32_toInt (v : Nine) : (sext32 v).toInt = v.toInt := by
  unfold sext32
  rw [BitVec.toInt_signExtend_of_le (by omega)]

/-- NUM_CHAR fits a response word: its parameter W is at most 32 (R14). -/
theorem zext32_toNat {n : Nat} (v : BitVec n) (h : n ≤ 32) : (zext32 v).toNat = v.toNat := by
  unfold zext32
  exact BitVec.toNat_setWidth_of_le h

/-- An early-exit result of a legal threshold, or an exact score, is in [-128, 128] (R84). -/
theorem compareResult_range {W : Nat} (b : Block W) (t : Option Int) (h : ∀ x ∈ t, thresholdLegal x = true) :
    -128 ≤ (b.compareResult t).1 ∧ (b.compareResult t).1 ≤ 128 := by
  have hd := distance_le b.cmpA b.cmpB
  cases t with
  | none => simp only [Block.compareResult, early, exactScore]; omega
  | some t =>
    have := h t rfl
    simp only [thresholdLegal, Bool.and_eq_true, decide_eq_true_eq] at this
    simp only [Block.compareResult, early, exactScore]
    split <;> simp only <;> omega

end Sys2Proof.Machine
end

