-- ==== Sys2Proof/Tests/Slice0.lean ====
section
/-!
SUPPORT. Tests, each with its expected result from spec/: what well-formedness refuses, a word of every
row decoded, one step of every command, the host's conversions; and, for every statement with
hypotheses, values that meet them, at the boundaries of their ranges.
-/

set_option Elab.async false

namespace Sys2Proof.Tests

open Sys2Proof.Machine

/-! Small states -/

/-- The narrowest byte counter (R14): its limit is 7 bytes. -/
def w3 : Config := ⟨3, by decide⟩

/-- A block after reset with a 3-bit counter, and acts to come. -/
def fresh (input : List HostAct) : State := ⟨w3, .reset 3, input, []⟩

/-- `fresh` with its block changed. -/
def with3 (f : Block 3 → Block 3) : State := ⟨w3, f (.reset 3), [], []⟩

/-- A histogram of 6-bit counters with the given buckets' counts. -/
def histOf (counts : List (Nat × Nat)) : Vector (BitVec 6) 256 :=
  Vector.ofFn fun i => BitVec.ofNat 6 ((counts.lookup i.val).getD 0)

/-- The state after "ab" (95 V-ACC-1). -/
def afterAb : State := with3 fun b => { b with w0 := 0x62, w1 := 0x61, wlen := 2, numChar := 2 }

/-- The state after "abc" (95 V-ACC-1): bucket 0xF6 holds 1. -/
def afterAbc : State := with3 fun b =>
  { b with w0 := 0x63, w1 := 0x62, w2 := 0x61, wlen := 3, numChar := 3, hist := histOf [(246, 1)] }

/-- "abc" and a finalize: DIGEST[1] = 0x40 (95 section 2.5). -/
def finalizedAbc : State := with3 fun b =>
  { b with
    w0 := 0x63, w1 := 0x62, w2 := 0x61, wlen := 3, numChar := 3, hist := histOf [(246, 1)], fin := true
    digest := (Vector.replicate 32 0).set 1 0x40 }

/-- A full count and a full window, with the error record and EE set. -/
def fullAndErr : State := with3 fun b => { b with numChar := 7, wlen := 4, err := true, errCode := 3, ee := true }

/-- An Empty accumulator with a comparator and an error record that are not at their reset values. -/
def emptyWithErr : State := with3 fun b =>
  { b with cmpA := .replicate 32 0xFF, score := 5, ee := true, err := true, errCode := 2 }

/-- Two operands (95 section 2.6). -/
def operands (a b : Digest) : State := with3 fun k => { k with cmpA := a, cmpB := b }

/-- 95 section 2.6: Z, O and E1. -/
def zeros : Digest := .replicate 32 0
def ones : Digest := .replicate 32 0xFF
def lastOne : Digest := zeros.set 31 1

/-- The state an outcome goes on with. -/
def nextOf (o : Host.Outcome State Fault Refusal) : Option State :=
  match o with
  | .next t => some t
  | .fault _ => none
  | .refused _ => none

/-- The last response of an outcome's next state, as (RERR, RDATA). -/
def answer (o : Host.Outcome State Fault Refusal) : Option (Bool × Word) :=
  match nextOf o with
  | some t => t.responses.getLast?.map fun r => (r.rerr, r.rdata)
  | none => none

/-- One value of an outcome's next state. -/
def look (o : Host.Outcome State Fault Refusal) (f : State → Nat) : Option Nat := (nextOf o).map f

/-- One histogram counter. -/
def bucket (i : Fin 256) (s : State) : Nat := s.block.hist[i].toNat

/-! Well-formedness and decoding -/

theorem test_wellformed_refuses_bad_threshold :
    (Instr.cmpRunThr 0x081).wellFormed = false ∧ (Instr.cmpRunThr 0x17F).wellFormed = false ∧
      (Instr.cmpRunThr 0x080).wellFormed = true ∧ (Instr.cmpRunThr 0x180).wellFormed = true := by decide

theorem test_wellformed_refuses_reserved_opcode :
    (Instr.reservedF 0).wellFormed = false ∧ Instr.nop.wellFormed = true := by decide

/-- R64, R69, R72: accumulator words. -/
theorem test_decode_accumulator_words :
    decode 0x10000000 = .ok .accClear ∧ decode 0x20000068 = .ok (.accIngest 0x68) ∧
      decode 0x30000000 = .ok .accFinalize ∧ decode 0x4000001C = .ok (.accRddig 28) ∧
      decode 0x50000000 = .ok .accRdcnt := by decide

/-- R64, R69, R72: comparator words. -/
theorem test_decode_comparator_words :
    decode 0x60001FFF = .ok (.cmpLda 31 0xFF) ∧ decode 0x700001FF = .ok (.cmpLdb 1 0xFF) ∧
      decode 0x80000000 = .ok .cmpCpya ∧ decode 0x90000000 = .ok .cmpCpyb ∧
      decode 0xA0000000 = .ok .cmpRun ∧ decode 0xA0000278 = .ok (.cmpRunThr 120) ∧
      decode 0xD000001F = .ok (.cmpRdop .cmpA 31) ∧ decode 0xE0000000 = .ok .rdScore := by decide

/-- R64, R69, R72: control words, and the reserved opcode. -/
theorem test_decode_control_words :
    decode 0x00000000 = .ok .nop ∧ decode 0xB0000000 = .ok .rdStatus ∧ decode 0xC0000000 = .ok .stClear ∧
      decode 0xF0000001 = .ok (.reservedF 1) := by decide

/-- 95 section 2.7: the words of valid opcodes that are illegal. -/
theorem test_decode_illegal_words :
    decode 0x00000001 = .error .reservedBit ∧ decode 0x20000100 = .error .reservedBit ∧
      decode 0x40000020 = .error .reservedBit ∧ decode 0x60002000 = .error .reservedBit ∧
      decode 0xD00000E0 = .error .reservedBit ∧ decode 0xA0000001 = .error .thresholdNotEnabled ∧
      decode 0xA0010281 = .error .reservedBit := by decide

/-- opcode_table.json numbers a row's bits from bit 0. -/
theorem test_decode_table_word :
    decodeTableWord 32 0xD0000105 = some (.cmpRdop .cmpB 5) ∧ decodeTableWord 32 0x00000001 = none := by decide

/-! Tables and datapath -/

/-- 95 section 2.2 and R74. -/
theorem test_tran3_vectors :
    tran3 0x63 0x62 0x61 0 = 0xF6 ∧ tran3 0 0 0 3 = 0x5D ∧ tran3 0xFF 0xFF 0xFF 7 = 0xA8 ∧
      tran3 0xFF 0xFF 0xFF 1 = 0x8C := by decide +kernel

/-- 10_state.md R37 and R39: first and last entries and one of the middle. -/
theorem test_table_entries :
    tran 0x00 = 0x02 ∧ tran 0x61 = 0x00 ∧ tran 0xFF = 0x4E ∧ popc 0xFF = 8 ∧ popc 0x9D = 5 := by decide +kernel

/-- 95 section 2.3. -/
theorem test_triplet_counts :
    tripletCount 2 = 0 ∧ tripletCount 3 = 1 ∧ tripletCount 4 = 4 ∧ tripletCount 5 = 12 ∧
      tripletCount 37 = 268 ∧ tripletCount (2 ^ 32 - 1) = 34359738332 := by decide

/-! One step of each command -/

theorem test_nop_answers_zero : answer (exec .nop fullAndErr) = some (false, 0) := by decide +kernel

/-- R85: the count goes, the error record stays. -/
theorem test_clear_keeps_error :
    answer (exec .accClear fullAndErr) = some (false, 0) ∧
      look (exec .accClear fullAndErr) (fun t => t.block.numChar.toNat) = some 0 ∧
      look (exec .accClear fullAndErr) (fun t => t.block.errCode.toNat) = some 3 := by decide +kernel

/-- R86, 95 V-ACC-1: the third byte of "abc". -/
theorem test_ingest_third_byte :
    look (exec (.accIngest 0x63) afterAb) (bucket 0xF6) = some 1 ∧
      look (exec (.accIngest 0x63) afterAb) (fun t => t.block.w2.toNat) = some 0x61 ∧
      look (exec (.accIngest 0x63) afterAb) (fun t => t.block.wlen.toNat) = some 3 := by decide +kernel

/-- R88, 95 V-ACC-2: two slots of one byte select bucket 0xA5. -/
theorem test_ingest_same_bucket_twice :
    let o := exec (.accIngest 0x61) (with3 fun b =>
      { b with w0 := 0x62, w1 := 0x61, w2 := 0x61, w3 := 0x61, wlen := 4, numChar := 4 })
    look o (bucket 0xA5) = some 2 ∧ look o (bucket 0x84) = some 1 ∧ look o (bucket 0x2E) = some 1 := by
  decide +kernel

/-- R93, R45: the digest of "abc". -/
theorem test_finalize_abc :
    look (exec .accFinalize afterAbc) (fun t => (t.block.digest.toList.getD 1 0).toNat) = some 0x40 ∧
      look (exec .accFinalize afterAbc) (fun t => (t.block.digest.toList.getD 30 0).toNat) = some 0 := by
  decide +kernel

/-- R77, 95 V-FIN-1: with 37 bytes a count of 1 is under the threshold and a count of 2 over it. -/
theorem test_digitize_strict_threshold :
    (digitize (histOf [(1, 1), (3, 2), (4, 1), (5, 2), (6, 1)]) 37).toList.getD 31 0 = 0x28 := by decide +kernel

/-- 95 V-ACC-3, P1: the source's literal scenario 1, from the histogram of "abcdefgh". -/
theorem test_digitize_literal_scenario :
    (digitize (histOf ([3, 4, 5, 6, 31, 33, 36, 37, 51, 55, 62, 64, 75, 80, 81, 84, 101, 108, 111, 115, 116, 122,
      133, 138, 146, 179, 184, 185, 231, 232, 236, 243, 246, 247, 250, 252].map fun i => (i, 1))) 8).toList =
      [0x14, 0xC8, 0x11, 0x80, 0, 0, 0, 0, 3, 8, 0, 0, 0, 4, 4, 0x20, 4, 0x18, 0x90, 0x20, 0, 0x13, 8, 1, 0x40,
        0x88, 0, 0x32, 0x80, 0, 0, 0x78] := by decide +kernel

/-- R94, 95 V-FIN-2. -/
theorem test_rddig_finalizes_first :
    answer (exec (.accRddig 1) afterAbc) = some (false, 0x40) ∧
      look (exec (.accRddig 1) afterAbc) (fun t => t.block.fin.toNat) = some 1 := by decide +kernel

/-- R95: the count at the limit of the default W. -/
theorem test_rdcnt_full_width :
    answer (exec .accRdcnt { State.reset with block := { State.reset.block with numChar := 0xFFFFFFFF#32 } }) =
      some (false, 0xFFFFFFFF) := by decide +kernel

/-- R96: the last byte of CMPA, and not of CMPB. -/
theorem test_lda_last_byte :
    look (exec (.cmpLda 31 0xFF) (fresh [])) (fun t => (t.block.cmpA.toList.getD 31 0).toNat) = some 0xFF ∧
      look (exec (.cmpLda 31 0xFF) (fresh [])) (fun t => (t.block.cmpB.toList.getD 31 0).toNat) = some 0 := by
  decide +kernel

/-- R97. -/
theorem test_ldb_first_byte :
    look (exec (.cmpLdb 0 0x14) (fresh [])) (fun t => (t.block.cmpB.toList.getD 0 0).toNat) = some 0x14 ∧
      look (exec (.cmpLdb 0 0x14) (fresh [])) (fun t => (t.block.cmpA.toList.getD 0 0).toNat) = some 0 := by
  decide +kernel

/-- R98, 95 P5 step 12. -/
theorem test_cpya_copies_digest :
    look (exec .cmpCpya afterAbc) (fun t => (t.block.cmpA.toList.getD 1 0).toNat) = some 0x40 ∧
      look (exec .cmpCpya afterAbc) (fun t => t.block.fin.toNat) = some 1 := by decide +kernel

/-- R99. -/
theorem test_cpyb_copies_digest :
    look (exec .cmpCpyb finalizedAbc) (fun t => (t.block.cmpB.toList.getD 1 0).toNat) = some 0x40 ∧
      look (exec .cmpCpyb finalizedAbc) (fun t => (t.block.cmpA.toList.getD 1 0).toNat) = some 0 := by
  decide +kernel

/-- 95 section 2.6: the extreme scores and one bit of difference. -/
theorem test_run_exact :
    answer (exec .cmpRun (operands zeros zeros)) = some (false, 0x80) ∧
      answer (exec .cmpRun (operands zeros ones)) = some (false, 0xFFFFFF80) ∧
      answer (exec .cmpRun (operands zeros lastOne)) = some (false, 0x7F) := by decide +kernel

/-- 95 section 2.6: early exits and the exact result at the threshold. -/
theorem test_run_threshold :
    answer (exec (.cmpRunThr 0x181) (operands zeros ones)) = some (false, 0xFFFFFF80) ∧
      look (exec (.cmpRunThr 0x181) (operands zeros ones)) (fun t => t.block.ee.toNat) = some 1 ∧
      answer (exec (.cmpRunThr 0) (operands zeros ones)) = some (false, 0xFFFFFFFF) ∧
      answer (exec (.cmpRunThr 127) (operands zeros lastOne)) = some (false, 0x7F) ∧
      look (exec (.cmpRunThr 127) (operands zeros lastOne)) (fun t => t.block.ee.toNat) = some 0 := by
  decide +kernel

/-- 95 section 2.6: an invalid threshold leaves STATUS = 0x00000210. -/
theorem test_run_invalid_threshold :
    answer (exec (.cmpRunThr 0x17F) (fresh [])) = some (true, 2) ∧
      look (exec (.cmpRunThr 0x081) (fresh [])) (fun t => t.block.statusWord.toNat) = some 0x210 := by
  decide +kernel

/-- R106, R35: every field of STATUS; with W = 3 and no EE, 95 V-ACC-4 has 0x00040311. -/
theorem test_status_fields :
    answer (exec .rdStatus fullAndErr) = some (false, 0x00040315) ∧
      answer (exec .rdStatus finalizedAbc) = some (false, 0x00030002) ∧
      answer (exec .rdStatus afterAbc) = some (false, 0x00030001) := by decide +kernel

/-- R107: EE stays. -/
theorem test_stclear_keeps_ee :
    look (exec .stClear fullAndErr) (fun t => t.block.statusWord.toNat) = some 0x00040005 := by decide +kernel

/-- R103: SEL picks the register. -/
theorem test_rdop_selects :
    answer (exec (.cmpRdop .cmpB 31) (operands ones lastOne)) = some (false, 1) ∧
      answer (exec (.cmpRdop .cmpA 31) (operands ones lastOne)) = some (false, 0xFF) := by decide +kernel

/-- R104: a score of -128, sign-extended. -/
theorem test_rdscore_sign_extends :
    answer (exec .rdScore (with3 fun b => { b with score := 0x180 })) = some (false, 0xFFFFFF80) := by
  decide +kernel

/-- R108, R127: the later error answers its own code, and the first one stays recorded. -/
theorem test_reserved_opcode_keeps_first_error :
    answer (exec (.reservedF 0) fullAndErr) = some (true, 1) ∧
      look (exec (.reservedF 0) fullAndErr) (fun t => t.block.errCode.toNat) = some 3 := by decide +kernel

/-- R89, 95 V-ACC-4: the eighth byte of a 3-bit counter. -/
theorem test_ingest_overflow :
    answer (exec (.accIngest 0x68) fullAndErr) = some (true, 3) ∧
      look (exec (.accIngest 0x68) fullAndErr) (fun t => t.block.numChar.toNat) = some 7 := by decide +kernel

/-- R9, R120: a step takes one act and answers an illegal word. -/
theorem test_step_illegal_word :
    answer (step (fresh [.command 0x20000100, .reset])) = some (true, 1) ∧
      look (step (fresh [.command 0x20000100, .reset])) (fun t => t.input.length) = some 1 := by decide +kernel

/-- R137: reset in the middle of a stream. -/
theorem test_step_reset :
    look (step { fullAndErr with input := [.reset] }) (fun t => t.block.statusWord.toNat) = some 0 := by
  decide +kernel

/-! The host side -/

/-- R114: the text of the example starts 14c8. -/
theorem test_hex_digest :
    (hexDigest ((zeros.set 0 0x14).set 1 0xC8)).take 6 = ['1', '4', 'c', '8', '0', '0'] := by decide +kernel

/-- R115: uppercase is accepted, and a 65th character is not. -/
theorem test_parse_hex :
    parseHexDigest (List.replicate 64 'F') = .ok ones ∧
      parseHexDigest (List.replicate 65 'F') = .error .invalidDigestFormat ∧
      parseHexDigest ('g' :: List.replicate 63 '0') = .error .invalidDigestFormat := by decide +kernel

/-- R115: an entry outside 0..255 is refused. -/
theorem test_parse_raw :
    parseRawDigest ((256 : Int) :: List.replicate 31 0) = .error .invalidDigestFormat ∧
      parseRawDigest (List.replicate 32 255) = .ok ones := by decide +kernel

/-- R110, UTF-8's standard meaning: one character of each length. -/
theorem test_utf8 :
    utf8 [Char.ofNat 0x61, Char.ofNat 0xE9, Char.ofNat 0x20AC, Char.ofNat 0x1F600] =
      [0x61, 0xC3, 0xA9, 0xE2, 0x82, 0xAC, 0xF0, 0x9F, 0x98, 0x80] := by decide +kernel

/-- R72: examples of the operand table, with a comment. -/
theorem test_assembler :
    assembleLine ['N', 'O', 'P', ' ', ';', 'x'] = some (some .nop) ∧
      assembleLine "ACC_INGEST 'a'".toList = some (some (.accIngest 0x61)) ∧
      assembleLine "CMP_LDA 3, 0xFF".toList = some (some (.cmpLda 3 0xFF)) ∧
      assembleLine "CMP_RUN -128".toList = some (some (.cmpRunThr 0x180)) ∧
      assembleLine "CMP_RDOP B, 5".toList = some (some (.cmpRdop .cmpB 5)) := by decide +kernel

/-- R72: an operand out of range is refused, not truncated. -/
theorem test_assembler_refuses :
    assembleLine "ACC_INGEST 256".toList = none ∧ assembleLine "ACC_RDDIG 32".toList = none ∧
      assembleLine "CMP_RUN 129".toList = none := by decide +kernel

/-- R72: a character literal is a byte operand only. -/
theorem test_assembler_character_literal :
    assembleLine "CMP_RUN 'a'".toList = none ∧ assembleLine "ACC_RDDIG 'a'".toList = none ∧
      assembleLine "CMP_LDB 0, ';'".toList = some (some (.cmpLdb 0 0x3B)) := by decide +kernel

/-- R109, R117: a rejected CMP_RUN is InvalidThreshold and no score of 2; -128 is a score. -/
theorem test_driver_checks_rerr :
    compareValue ⟨true, 2⟩ = .error (.kind .invalidThreshold) ∧ compareValue ⟨false, 0xFFFFFF80⟩ = .ok (-128) ∧
      digestOfResponses [⟨false, 0x14⟩, ⟨true, 1⟩] = .error (.rejected 1) := by decide

/-- R111: the chunk before the bad one is ingested, the bad one issues nothing. -/
theorem test_bad_chunk :
    ingestChunks [.bytes [1], .other, .bytes [2]] = ([.accIngest 1], some .invalidInputType) := by decide

/-! Values that meet the hypotheses of the statements -/

/-- The invariant, in a state that holds a digest. -/
theorem witness_inv_finalized : finalizedAbc.Inv where
  windowLength := by decide
  histogramSum := by decide +kernel
  digestCached := by intro _; decide +kernel
  windowZero := by decide
  emptyDigest := by intro h; exact absurd h (by decide)
  errorCode := by decide
  scoreRange := by decide

/-- The invariant, with fewer than 3 bytes and FIN = 0. -/
theorem witness_inv_short : afterAb.Inv ∧ afterAb.block.numChar.toNat < 3 ∧ afterAb.block.err = false := by
  refine ⟨⟨by decide, by decide +kernel, ?_, by decide, ?_, by decide, by decide⟩, by decide, by decide⟩
  · intro h; exact absurd h (by decide)
  · intro _; rfl

/-- The invariant, Empty, with a full error record. -/
theorem witness_inv_empty : emptyWithErr.Inv ∧ emptyWithErr.block.astate = .empty := by
  refine ⟨⟨by decide, by decide +kernel, ?_, by decide, fun _ => rfl, by decide, by decide⟩, by decide⟩
  intro h; exact absurd h (by decide)

/-- EveryStepKeepsInvariant: a state that meets the invariant, and its step. -/
theorem witness_invariant_step : ∃ s t : State, s.Inv ∧ s.input = [.command 0x20000064] ∧ step s = .next t :=
  ⟨{ finalizedAbc with input := [.command 0x20000064] }, _, witness_inv_finalized, rfl, rfl⟩

/-- The acts of the host that the statements about steps name. -/
theorem witness_inputs :
    (fresh [.command 0x10000000]).input = .command 0x10000000 :: [] ∧ (fresh [.reset]).input = .reset :: [] ∧
      (fresh []).input = [] ∧ decode 0x10000000 = .ok .accClear := by decide

/-- Words of every opcode that its format refuses, with the least and the greatest reserved bit set. -/
theorem witness_illegal_words :
    ([0x20000100#32, 0x28000000#32].all fun w => opField w == 0x2 && field w 8 20 != 0) = true ∧
    ([0x40000020#32, 0x48000000#32].all fun w => opField w == 0x4 && field w 5 23 != 0) = true ∧
    ([0x60002000#32, 0x68000000#32].all fun w => opField w == 0x6 && field w 13 15 != 0) = true ∧
    ([0x70002000#32, 0x78000000#32].all fun w => opField w == 0x7 && field w 13 15 != 0) = true ∧
    ([0xA0000400#32, 0xA8000000#32].all fun w => opField w == 0xA && field w 10 18 != 0) = true ∧
    ([0xA0000001#32, 0xA00001FF#32].all fun w =>
      opField w == 0xA && field w 9 1 == 0 && field w 0 9 != 0) = true ∧
    ([0xD0000200#32, 0xD8000000#32].all fun w => opField w == 0xD && field w 9 19 != 0) = true ∧
    ([0xD0000020#32, 0xD0000080#32].all fun w => opField w == 0xD && field w 5 3 != 0) = true ∧
    ([0xF0000000#32, 0xFFFFFFFF#32].all fun w => opField w == 0xF) = true := by decide +kernel

/-- The same of the format with no operand. -/
theorem witness_illegal_words_no_operand :
    ([0x0#4, 0x1#4, 0x3#4, 0x5#4, 0x8#4, 0x9#4, 0xB#4, 0xC#4, 0xE#4].all fun op =>
      [1#28, 0x8000000#28].all fun r =>
        opField (place 28 op ||| place 0 r) == op && field (place 28 op ||| place 0 r) 0 28 != 0 &&
          (place 28 op ||| place 0 r) != place 28 op) = true := by decide +kernel

/-- IllegalCommandExactlyUnlistedWords: a word outside every row and one inside. RejectionsArePrecise and
ErrorRecordIsSticky: a word that is no command. -/
theorem witness_rows :
    (∀ r ∈ commandRows, r.selects 0x20000100 = false) ∧ (∃ r ∈ commandRows, r.selects 0x200000FF = true) ∧
      (∃ e, decode 0x20000100 = .error e) ∧ (∃ e, decode 0xA00001FF = .error e) :=
  ⟨by decide, by decide, ⟨_, rfl⟩, ⟨_, rfl⟩⟩

/-- TripletCountCountsIncrements, ThresholdNeverTies, DigestBitPlacement: the ends of the ranges. -/
theorem witness_counts : 2 < 3 ∧ 3 ≤ 3 ∧ 4 < 5 ∧ 7 < 2 ^ w3.W ∧ 2 ^ 32 - 1 < 2 ^ Config.standard.W ∧ 255 < 256 := by
  decide

/-- SerialExitEqualsTotalForm, EarlyExitRange: both ends of T, another order of the bytes, an exit taken
and one not taken. -/
theorem witness_thresholds :
    ((bytePairs zeros ones).reverse.Perm (bytePairs zeros ones)) ∧ (-128 : Int) ≤ -128 ∧ (128 : Int) ≤ 128 ∧
      (early (distance zeros lastOne) (some 128)).2 = true ∧ (early (distance zeros lastOne) (some 127)).2 = false ∧
      zeros ≠ lastOne :=
  ⟨List.reverse_perm _, by decide +kernel⟩

/-- The ends of the legal and of the illegal THR patterns. -/
theorem witness_thr_patterns :
    (-128 ≤ (0x180#9).toInt ∧ (0x180#9).toInt ≤ 128) ∧ (-128 ≤ (0x080#9).toInt ∧ (0x080#9).toInt ≤ 128) ∧
      ¬ (-128 ≤ (0x081#9).toInt ∧ (0x081#9).toInt ≤ 128) ∧ ¬ (-128 ≤ (0x17F#9).toInt ∧ (0x17F#9).toInt ≤ 128) ∧
      thresholdLegal (thresholdOf 0x180) = true ∧ thresholdLegal (thresholdOf 0x080) = true := by decide

/-- ACC_INGEST: a count at the limit and one below it. -/
theorem witness_count_limit :
    fullAndErr.block.numChar.toNat = 2 ^ fullAndErr.cfg.W - 1 ∧
      (with3 fun b => { b with numChar := 6 }).block.numChar.toNat ≠ 2 ^ w3.W - 1 := by decide

/-- InvalidThresholdExactly, IngestOverflowRejected: commands that are rejected with codes 2 and 3. -/
theorem witness_rejections :
    exec (.cmpRunThr 0x081) emptyWithErr = .next (rejected emptyWithErr 2) ∧
      exec (.accIngest 0) fullAndErr = .next (rejected fullAndErr 3) := ⟨rfl, rfl⟩

/-- FIN and ERR at both values. -/
theorem witness_flags :
    finalizedAbc.block.fin = true ∧ afterAbc.block.fin = false ∧ fullAndErr.block.err = true ∧
      afterAbc.block.err = false := by decide

/-- FinalizingReadsIdempotent, MidStreamReadIsSafe, DigestIsTheStreamsDigest: commands of each kind, and a
stream of the greatest length the narrowest counter takes. -/
theorem witness_streams :
    Instr.accFinalize.finalizes = true ∧ (Instr.accRddig 31).finalizes = true ∧ Instr.cmpCpya.finalizes = true ∧
      Instr.rdStatus.silentRead = true ∧ [1#8, 2#8, 3#8, 4#8].length + [5#8, 6#8, 7#8].length < 2 ^ w3.W := by
  decide

/-- RunDependsOnlyOnOperands: two blocks of different widths with the same operands. -/
theorem witness_same_operands :
    State.reset.block.cmpA = afterAbc.block.cmpA ∧ State.reset.block.cmpB = afterAbc.block.cmpB ∧
      State.reset.cfg ≠ afterAbc.cfg := by decide

/-- RejectionsArePrecise, ErrorRecordIsSticky, StateWrittenOnlyByItsCommands: a command that is none of
those each clause sets aside, and ST_CLEAR itself. -/
theorem witness_other_command :
    Instr.nop ≠ .rdStatus ∧ Instr.nop ≠ .stClear ∧ (∀ c, Instr.nop ≠ .accIngest c) ∧ Instr.nop ≠ .accClear ∧
      Instr.nop.finalizes = false ∧ (∀ k v, Instr.nop ≠ .cmpLda k v) ∧ Instr.nop ≠ .cmpCpya ∧
      (∀ k v, Instr.nop ≠ .cmpLdb k v) ∧ Instr.nop ≠ .cmpCpyb ∧ Instr.nop ≠ .cmpRun ∧
      (∀ thr, Instr.nop ≠ .cmpRunThr thr) ∧ Instr.stClear = .stClear := by simp [Instr.finalizes]

/-- RawParserAcceptsExactly: a list of 32 entries at the ends of the range, and one with an entry past it. -/
theorem witness_raw_digests :
    ((List.replicate 31 (255 : Int) ++ [0]).length = 32 ∧
        ∀ n ∈ List.replicate 31 (255 : Int) ++ [0], 0 ≤ n ∧ n ≤ 255) ∧
      ¬ ∀ n ∈ (256 : Int) :: List.replicate 31 0, 0 ≤ n ∧ n ≤ 255 := by
  simp

/-- CompareThroughDriver: no threshold and both ends of the range. HexParserAcceptsExactly: a text of 64
hex characters and one that is none. -/
theorem witness_driver :
    (∀ t ∈ [none, some (128 : Int), some (-128)], ∀ x ∈ t, -128 ≤ x ∧ x ≤ 128) ∧
      ((List.replicate 64 'f').length = 64 ∧
        ∀ c ∈ List.replicate 64 'f', ('0' ≤ c ∧ c ≤ '9') ∨ ('a' ≤ c ∧ c ≤ 'f') ∨ ('A' ≤ c ∧ c ≤ 'F')) ∧
      (List.replicate 63 'f').length ≠ 64 := by
  refine ⟨by decide, ⟨by simp, ?_⟩, by simp⟩
  intro c hc
  rw [List.eq_of_mem_replicate hc]
  decide

/-- DriverChecksRerr: illegal thresholds at the ends of what 9 bits hold, and responses of each kind. -/
theorem witness_rejected_compare :
    (∀ t ∈ [(-256 : Int), -129, 129, 255], -256 ≤ t ∧ t ≤ 255 ∧ ¬ (-128 ≤ t ∧ t ≤ 128)) ∧
      (∃ r ∈ [Response.ok 1, Response.error .countOverflow], r.rerr = true) ∧
      (∀ r ∈ [Response.ok 1, Response.ok 255], r.rerr = false) := by decide

/-- AssembledCommandsWellFormed: both sides of each end of the operands' ranges, the last ASCII code, and
a line without a quote. -/
theorem witness_operand_texts :
    assembleLine (asmLine "ACC_INGEST" [decimalText 255]) = some (some (.accIngest 255)) ∧
      assembleLine (asmLine "ACC_INGEST" [decimalText (-1)]) = none ∧
      assembleLine (asmLine "ACC_INGEST" [decimalText 256]) = none ∧
      assembleLine (asmLine "ACC_RDDIG" [decimalText 31]) = some (some (.accRddig 31)) ∧
      assembleLine (asmLine "CMP_RDOP" [['A'], decimalText 32]) = none ∧
      assembleLine (asmLine "CMP_RUN" [decimalText (-128)]) = some (some (.cmpRunThr 0x180)) ∧
      assembleLine (asmLine "CMP_RUN" [decimalText (-129)]) = none ∧
      assembleLine (asmLine "CMP_LDA" [decimalText 31, decimalText 0]) = some (some (.cmpLda 31 0)) ∧
      assembleLine (asmLine "CMP_LDB" [decimalText 32, decimalText 0]) = none ∧
      (Char.ofNat 127).toNat < 128 ∧ quoteChar ∉ "NOP".toList := by decide +kernel

/-- AssembledCommandsWellFormed: a line with a threshold at the end of its range. -/
theorem witness_assembled : assembleLine "CMP_RUN 128 ; exact unless equal".toList = some (some (.cmpRunThr 0x080)) := by
  decide +kernel

end Sys2Proof.Tests
end

/-! Every word gets one answer (00_scope.md R11). -/

namespace Sys2Proof.Machine

/-- A word that decodes runs its command, on the state in which it has been taken. -/
theorem step_of_decode_ok (s : State) (w : Word) (rest : List HostAct) (i : Instr)
    (hin : s.input = .command w :: rest) (hd : decode w = .ok i) :
    step s = exec i { s with input := rest } := by
  rw [step_of_command s w rest hin, hd]

/-- A word the decoder refuses is illegal in every state. -/
theorem illegalWord_of_decode_error (w : Word) (e : DecodeError) (hd : decode w = .error e) :
    IllegalWord w := by
  intro s rest hin
  rw [step_of_command s w rest hin, hd]
  exact rejectWord_eq _ e

/-- The decoder is total: it reads a command, or the word is illegal. -/
theorem decodes_or_illegalWord (w : Word) : (∃ i, decode w = .ok i) ∨ IllegalWord w := by
  cases hd : decode w with
  | ok i => exact .inl ⟨i, rfl⟩
  | error e => exact .inr (illegalWord_of_decode_error w e hd)

/-- A step on a command word changes the block, takes the word and adds one response; a command
answers by `exec_answers`, an illegal word with its rejection. -/
theorem step_command_answers (s : State) (w : Word) (rest : List HostAct)
    (hin : s.input = .command w :: rest) :
    ∃ (b : Block s.cfg.W) (r : Response),
      step s = .next { s with block := b, input := rest, responses := s.responses ++ [r] } := by
  obtain ⟨i, hd⟩ | hill := decodes_or_illegalWord w
  · rw [step_of_decode_ok s w rest i hin hd]
    exact exec_answers i { s with input := rest }
  · exact ⟨_, _, hill s rest hin⟩

/-- No step stops the machine, whatever the host does next. -/
theorem exists_step_eq_next (s : State) : ∃ t, step s = .next t := by
  cases hin : s.input with
  | nil => exact ⟨s, step_of_nil s hin⟩
  | cons act rest =>
    cases act with
    | reset => exact ⟨_, step_of_reset s rest hin⟩
    | command w =>
      obtain ⟨b, r, hstep⟩ := step_command_answers s w rest hin
      exact ⟨_, hstep⟩

/-- Settles O9: the decoder is total, each command and each rejection adds one response, and waiting
and reset answer a state too. -/
theorem everyWordAnsweredOnce : Obligations.EveryWordAnsweredOnce :=
  ⟨decodes_or_illegalWord, step_command_answers, exists_step_eq_next⟩

end Sys2Proof.Machine

/-! The error record (10_state.md R34) and POPC (R39). -/

namespace Sys2Proof.Machine

/-- What a command does to the error record: ST_CLEAR clears it, any other command that completes keeps
it, and the only other end is a rejection, whose whole effect `rejected` says. -/
theorem exec_errorRecord (i : Instr) (s : State) :
    (i = .stClear ∧ exec i s = .next (completed s s.block.clearError 0)) ∨
    (i ≠ .stClear ∧ ∃ (b : Block s.cfg.W) (v : Word), exec i s = .next (completed s b v) ∧
      b.err = s.block.err ∧ b.errCode = s.block.errCode) ∨
    (i ≠ .stClear ∧ ∃ e : ErrorCode, exec i s = .next (rejected s e.code)) := by
  cases i with
  | stClear => exact .inl ⟨rfl, rfl⟩
  | accIngest c =>
    simp only [exec, execAccIngest]
    split
    · exact .inr (.inr ⟨nofun, .countOverflow, rfl⟩)
    · exact .inr (.inl ⟨nofun, _, _, rfl, by simp, by simp⟩)
  | cmpRunThr thr =>
    simp only [exec, execCmpRunThr]
    split
    · exact .inr (.inl ⟨nofun, _, _, rfl, by simp, by simp⟩)
    · exact .inr (.inr ⟨nofun, .invalidThreshold, rfl⟩)
  | reservedF rest => exact .inr (.inr ⟨nofun, .illegalCommand, rfl⟩)
  | _ => exact .inr (.inl ⟨nofun, _, _, rfl, by simp, by simp⟩)

@[simp] theorem rejected_err (s : State) (code : BitVec 4) : (rejected s code).block.err = true := rfl

/-- The first error since the last clear stays (R34). -/
theorem rejected_errCode_of_err (s : State) (code : BitVec 4) (h : s.block.err = true) :
    (rejected s code).block.errCode = s.block.errCode := by
  simp [rejected, h]

/-- With ERR = 0 the rejection's own code is stored (R34). -/
theorem rejected_errCode_of_not_err (s : State) (code : BitVec 4) (h : s.block.err = false) :
    (rejected s code).block.errCode = code := by
  simp [rejected, h]

/-- Settles O52: each of the three ends of `exec_errorRecord` meets the clauses on ERR and ERRCODE. -/
theorem errorRecordIsSticky : Obligations.ErrorRecordIsSticky := by
  refine ⟨fun w ⟨e, hd⟩ => illegalWord_of_decode_error w e hd, fun i s => ?_, rfl, rfl⟩
  obtain ⟨hi, hexec⟩ | ⟨hi, b, v, hexec, herr, hcode⟩ | ⟨hi, e, hexec⟩ := exec_errorRecord i s
  · exact ⟨_, hexec, fun _ hne => absurd hi hne,
      fun _ => .inl ⟨rfl, fun hne => absurd hi hne, 0, rfl⟩, fun _ => ⟨rfl, rfl⟩⟩
  · exact ⟨_, hexec, fun h _ => ⟨herr.trans h, hcode⟩,
      fun h => .inl ⟨herr.trans h, fun _ => hcode, v, rfl⟩, fun hc => absurd hc hi⟩
  · refine ⟨_, hexec, fun h _ => ⟨rejected_err s _, rejected_errCode_of_err s _ h⟩,
      fun h => .inr ⟨rejected_err s _, ?_⟩, fun hc => absurd hc hi⟩
    rw [rejected_errCode_of_not_err s _ h]
    rfl

/-- An entry of POPC against its definition (R39); the table is a constant, so the 256 entries are
checked one by one. -/
theorem popc_toNat (x : Byte) :
    (popc x).toNat = ((List.range 8).filter fun i => x.getLsbD i).length := by
  revert x; decide +kernel

/-- Settles O23: the table's length, and `popc_toNat` for its entries. -/
theorem popcCountsSetBits : Obligations.PopcCountsSetBits :=
  ⟨by decide +kernel, popc_toNat⟩

end Sys2Proof.Machine

/-! Where the digitizer puts a bucket's bit (10_state.md R45, 40_datapath.md R79). -/

namespace Sys2Proof.Machine

/-- `digestBit` as an indexed read: byte `31 - (i div 8)` always exists (R45). -/
theorem digestBit_eq_getElem (d : Digest) (i : Nat) :
    digestBit d i = d[31 - i / 8].getLsbD (i % 8) := by
  simp [digestBit, show 31 - i / 8 < 32 by omega]

@[simp] theorem digestBit_replicate_zero (i : Nat) : digestBit (Vector.replicate 32 0#8) i = false := by
  simp [digestBit_eq_getElem]

/-- Setting bucket `i`'s bit sets that bit and keeps the bits of all other buckets. The bounds matter:
from 256 on, `digestByteOf` stays at byte 0, where other buckets lie. -/
theorem digestBit_setDigestBit (d : Digest) (i j : Nat) (hi : i < 256) (hj : j < 256) :
    digestBit (setDigestBit d i) j = (digestBit d j || decide (i = j)) := by
  simp only [digestBit_eq_getElem, setDigestBit, digestByteOf, Vector.getElem_set]
  by_cases hbyte : 31 - i / 8 = 31 - j / 8
  · have hbit : (1#8 <<< (i % 8)).getLsbD (j % 8) = decide (i = j) := by
      rw [← BitVec.twoPow, BitVec.getLsbD_twoPow, decide_eq_true (Nat.mod_lt i (by decide)),
        Bool.true_and, decide_eq_decide]
      omega
    simp [hbyte, hbit]
  · have hne : i ≠ j := by omega
    simp [hbyte, hne]

/-- The loop of R79 over any list of buckets with their indices: a bit is set at the end if it was set
before, or a bucket of that index passes the test. -/
theorem digestBit_foldl_setDigestBit {α : Type} (p : α → Bool) (buckets : List (α × Nat)) (d : Digest)
    (j : Nat) (hj : j < 256) (hidx : ∀ b ∈ buckets, b.2 < 256) :
    digestBit (buckets.foldl (fun d b => if p b.1 then setDigestBit d b.2 else d) d) j =
      (digestBit d j || buckets.any fun b => p b.1 && decide (b.2 = j)) := by
  induction buckets generalizing d with
  | nil => simp
  | cons b rest ih =>
    have hb : b.2 < 256 := hidx b List.mem_cons_self
    rw [List.foldl_cons, ih _ fun c hc => hidx c (List.mem_cons_of_mem b hc), List.any_cons]
    cases p b.1 with
    | true => simp [digestBit_setDigestBit d b.2 j hb hj, Bool.or_assoc]
    | false => simp

/-- In a list with its indices, some element of index `j` passes the test exactly when the `j`-th
element does. -/
theorem any_zipIdx_index_eq {α : Type} (p : α → Bool) (l : List α) (j : Nat) (hj : j < l.length) :
    (l.zipIdx.any fun b => p b.1 && decide (b.2 = j)) = p l[j] := by
  rw [Bool.eq_iff_iff]
  simp [List.mem_zipIdx_iff_getElem?, hj]

/-- The loop over a whole list of at most 256 buckets: only the `j`-th bucket decides bit `j`. -/
theorem digestBit_foldl_zipIdx {α : Type} (p : α → Bool) (l : List α) (d : Digest) (j : Nat)
    (hj : j < l.length) (hlen : l.length ≤ 256) :
    digestBit (l.zipIdx.foldl (fun d b => if p b.1 then setDigestBit d b.2 else d) d) j =
      (digestBit d j || p l[j]) := by
  have hidx : ∀ b ∈ l.zipIdx, b.2 < 256 := fun b hb => (List.snd_lt_of_mem_zipIdx hb).trans_le hlen
  rw [digestBit_foldl_setDigestBit p l.zipIdx d j (hj.trans_le hlen) hidx, any_zipIdx_index_eq p l j hj]

/-- What the digitizer answers, bucket by bucket (R77, R79). -/
theorem digestBit_digitize {w : Nat} (hist : Vector (BitVec w) 256) (n i : Nat) (h : i < 256) :
    digestBit (digitize hist n) i = overThreshold hist[i].toNat (tripletCount n) := by
  have hloop := digestBit_foldl_zipIdx (fun count => overThreshold count.toNat (tripletCount n))
    hist.toList (Vector.replicate 32 0) i (by simpa using h) (by simp)
  simpa [digitize] using hloop

/-- Settles O19: the bit read is `digestBit`, and `digestBit_digitize` says what the loop left there. -/
theorem digestBitPlacement : Obligations.DigestBitPlacement := by
  intro w hist n i h
  rw [← digestBit_eq_getElem, digestBit_digitize hist n i h, overThreshold]

end Sys2Proof.Machine

/-! Fields and placed values read back from each other (30_encoding.md R16, R64). -/

namespace Sys2Proof

@[simp] theorem field_or (w w' : Word) (lo len : Nat) :
    field (w ||| w') lo len = field w lo len ||| field w' lo len := by
  ext i hi
  simp [getElem_field]

/-- A value that fits in the word is read back where it was placed. -/
@[simp] theorem field_place_same {n : Nat} (lo : Nat) (v : BitVec n) (h : lo + n ≤ 32) :
    field (place lo v) lo n = v := by
  ext i hi
  have hbit : lo + i < 32 := by omega
  simp [getElem_field, BitVec.getLsbD_eq_getElem hbit, getElem_place, BitVec.getLsbD_eq_getElem hi]

/-- A field that lies beside a placed value reads 0. -/
@[simp] theorem field_place_disjoint {n : Nat} (lo lo' len : Nat) (v : BitVec n)
    (h : lo' + len ≤ lo ∨ lo + n ≤ lo') : field (place lo v) lo' len = 0 := by
  ext i hi
  obtain hlow | hhigh := h
  · have hnot : ¬ lo ≤ lo' + i := by omega
    simp [getElem_field, place, hnot]
  · have hout : n ≤ lo' + i - lo := by omega
    simp [getElem_field, place, BitVec.getLsbD_of_ge v _ hout]

@[simp] theorem opField_place_opcode (op : BitVec 4) : opField (place 28 op) = op :=
  field_place_same 28 op (by decide)

/-- An operand below bit 28 leaves OP as it is. -/
@[simp] theorem opField_or_place {n : Nat} (w : Word) (lo : Nat) (v : BitVec n) (h : lo + n ≤ 28) :
    opField (w ||| place lo v) = opField w := by
  simp [opField, h]

@[simp] theorem selOfBit_bitOfSel (sel : OperandReg) : selOfBit (bitOfSel sel) = sel := by
  cases sel <;> rfl

@[simp] theorem bitOfSel_selOfBit (b : BitVec 1) : bitOfSel (selOfBit b) = b := by
  revert b; decide

/-! Each format reads the operands of a word it lays out (R64 to R68). -/

section
variable (op : BitVec 4)

theorem formatN_of_layout (i : Instr) : formatN (place 28 op) i = .ok i := by
  simp [formatN, ifReservedZero]

theorem formatB_of_layout (f : Byte → Instr) (c : Byte) :
    formatB (place 28 op ||| place 0 c) f = .ok (f c) := by
  simp [formatB, ifReservedZero]

theorem formatI_of_layout (f : DigestIdx → Instr) (k : DigestIdx) :
    formatI (place 28 op ||| place 0 k) f = .ok (f k) := by
  simp [formatI, ifReservedZero]

theorem formatIB_of_layout (f : DigestIdx → Byte → Instr) (k : DigestIdx) (v : Byte) :
    formatIB (place 28 op ||| place 8 k ||| place 0 v) f = .ok (f k v) := by
  simp [formatIB, ifReservedZero]

theorem formatSI_of_layout (f : OperandReg → DigestIdx → Instr) (sel : OperandReg)
    (k : DigestIdx) :
    formatSI (place 28 op ||| place 8 (bitOfSel sel) ||| place 0 k) f = .ok (f sel k) := by
  simp [formatSI, ifReservedZero]

theorem formatT_of_layout_disabled (noThreshold : Instr) (f : Nine → Instr) :
    formatT (place 28 op) noThreshold f = .ok noThreshold := by
  simp [formatT]

theorem formatT_of_layout_enabled (noThreshold : Instr) (f : Nine → Instr) (thr : Nine) :
    formatT (place 28 op ||| place 9 1#1 ||| place 0 thr) noThreshold f = .ok (f thr) := by
  simp [formatT]

end

/-- Settles O1: OP of the encoded word picks the command's arm of `decode`, and that arm's format
reads the operands back by its `_of_layout` lemma. -/
theorem decodeOfEncodedCommand : Obligations.DecodeOfEncodedCommand := by
  intro i
  cases i with
  | accIngest c => simp [encode, decode, formatB_of_layout]
  | accRddig k => simp [encode, decode, formatI_of_layout]
  | cmpLda k v => simp [encode, decode, formatIB_of_layout]
  | cmpLdb k v => simp [encode, decode, formatIB_of_layout]
  | cmpRun => simp [encode, decode, formatT_of_layout_disabled]
  | cmpRunThr thr => simp [encode, decode, formatT_of_layout_enabled]
  | cmpRdop sel k => simp [encode, decode, formatSI_of_layout]
  | reservedF rest => simp [encode, decode]
  | _ => simp [encode, decode, formatN_of_layout]

/-! A word is put together again from its fields (R16, R64). -/

@[simp] theorem place_zero (lo n : Nat) : place lo 0#n = 0#32 := by
  simp [place]

/-- A field cut in two at bit `mid`, and put together again. -/
theorem place_field_split (w : Word) {lo mid len : Nat} (m n : Nat) (hmid : lo + m = mid)
    (hlen : m + n = len) :
    place lo (field w lo len) = place mid (field w mid n) ||| place lo (field w lo m) := by
  subst hmid hlen
  ext i hi
  simp only [BitVec.getElem_or, getElem_place _ _ _ hi, field, BitVec.getLsbD_extractLsb']
  by_cases hlo : lo ≤ i
  · obtain ⟨k, rfl⟩ := Nat.exists_eq_add_of_le hlo
    by_cases hk : k < m
    · have hbelow : ¬ lo + m ≤ lo + k := by omega
      have hlen : k < m + n := by omega
      simp [hk, hbelow, hlen]
    · obtain ⟨j, rfl⟩ := Nat.exists_eq_add_of_le (Nat.le_of_not_lt hk)
      have hle : lo ≤ lo + m + j := by omega
      have hsub : lo + m + j - lo = m + j := by omega
      simp [← Nat.add_assoc, hle, hsub]
  · have hbelow : ¬ lo + m ≤ i := by omega
    simp [hlo, hbelow]

/-- Reserved bits that are 0 add nothing to the field they are the upper part of. -/
theorem place_field_of_upper_zero {w : Word} {lo mid len : Nat} (m n : Nat) (hmid : lo + m = mid)
    (hlen : m + n = len) (hzero : field w mid n = 0) :
    place lo (field w lo len) = place lo (field w lo m) := by
  simp [place_field_split w m n hmid hlen, hzero]

/-- OP and the 28 bits below it are the whole word. -/
theorem place_opcode_or_place_rest {w : Word} {n : Nat} (hop : (opField w).toNat = n) :
    place 28 (BitVec.ofNat 4 n) ||| place 0 (field w 0 28) = w := by
  subst hop
  exact eq_of_fields _ _ (by simp) (by simp)

/-! Each format accepts only words it lays out (R64 to R68, R70). -/

@[simp] theorem ifReservedZero_eq_ok_iff (reservedZero : Bool) (i j : Instr) :
    ifReservedZero reservedZero i = .ok j ↔ reservedZero = true ∧ i = j := by
  cases reservedZero <;> simp [ifReservedZero]

section
variable {w : Word} {i : Instr} {n : Nat} (hop : (opField w).toNat = n)
include hop

theorem layout_of_formatN {j : Instr} (h : formatN w j = .ok i) :
    place 28 (BitVec.ofNat 4 n) = w ∧ j = i := by
  simp only [formatN, ifReservedZero_eq_ok_iff, beq_iff_eq] at h
  obtain ⟨hres, rfl⟩ := h
  have hw := place_opcode_or_place_rest hop
  exact ⟨by simpa [hres] using hw, rfl⟩

theorem layout_of_formatB {f : Byte → Instr} (h : formatB w f = .ok i) :
    ∃ c, place 28 (BitVec.ofNat 4 n) ||| place 0 c = w ∧ f c = i := by
  simp only [formatB, ifReservedZero_eq_ok_iff, beq_iff_eq] at h
  obtain ⟨hres, rfl⟩ := h
  have hw := place_opcode_or_place_rest hop
  rw [place_field_of_upper_zero 8 20 rfl rfl hres] at hw
  exact ⟨_, hw, rfl⟩

theorem layout_of_formatI {f : DigestIdx → Instr} (h : formatI w f = .ok i) :
    ∃ k, place 28 (BitVec.ofNat 4 n) ||| place 0 k = w ∧ f k = i := by
  simp only [formatI, ifReservedZero_eq_ok_iff, beq_iff_eq] at h
  obtain ⟨hres, rfl⟩ := h
  have hw := place_opcode_or_place_rest hop
  rw [place_field_of_upper_zero 5 23 rfl rfl hres] at hw
  exact ⟨_, hw, rfl⟩

theorem layout_of_formatIB {f : DigestIdx → Byte → Instr} (h : formatIB w f = .ok i) :
    ∃ k v, place 28 (BitVec.ofNat 4 n) ||| place 8 k ||| place 0 v = w ∧ f k v = i := by
  simp only [formatIB, ifReservedZero_eq_ok_iff, beq_iff_eq] at h
  obtain ⟨hres, rfl⟩ := h
  have hw := place_opcode_or_place_rest hop
  rw [place_field_of_upper_zero 13 15 rfl rfl hres, place_field_split w 8 5 rfl rfl,
    ← BitVec.or_assoc] at hw
  exact ⟨_, _, hw, rfl⟩

theorem layout_of_formatSI {f : OperandReg → DigestIdx → Instr} (h : formatSI w f = .ok i) :
    ∃ sel k, place 28 (BitVec.ofNat 4 n) ||| place 8 (bitOfSel sel) ||| place 0 k = w ∧ f sel k = i := by
  simp only [formatSI, ifReservedZero_eq_ok_iff, Bool.and_eq_true, beq_iff_eq] at h
  obtain ⟨⟨hres, hgap⟩, rfl⟩ := h
  have hw := place_opcode_or_place_rest hop
  rw [place_field_of_upper_zero 9 19 rfl rfl hres, place_field_split w 8 1 rfl rfl,
    place_field_of_upper_zero 5 3 rfl rfl hgap, ← BitVec.or_assoc] at hw
  exact ⟨_, _, by rwa [bitOfSel_selOfBit], rfl⟩

theorem layout_of_formatT {noThreshold : Instr} {f : Nine → Instr} (h : formatT w noThreshold f = .ok i) :
    (place 28 (BitVec.ofNat 4 n) = w ∧ noThreshold = i) ∨
      ∃ thr, place 28 (BitVec.ofNat 4 n) ||| place 9 1#1 ||| place 0 thr = w ∧ f thr = i := by
  have hw := place_opcode_or_place_rest hop
  simp only [formatT] at h
  split at h
  · cases h
  next hres =>
    simp only [bne_iff_ne, ne_eq, not_not] at hres
    rw [place_field_of_upper_zero 10 18 rfl rfl hres] at hw
    split at h
    next hte =>
      cases h
      rw [place_field_split w 9 1 rfl rfl, ← BitVec.or_assoc, beq_iff_eq.mp hte] at hw
      exact .inr ⟨_, hw, rfl⟩
    next hte =>
      split at h
      · cases h
      next hthr =>
        cases h
        simp only [beq_iff_eq, bne_iff_ne, ne_eq, not_not] at hte hthr
        rw [place_field_of_upper_zero 9 1 rfl rfl ((BitVec.eq_zero_or_eq_one _).resolve_right hte), hthr] at hw
        exact .inl ⟨by simpa using hw, rfl⟩

/-- A format without operands, for a row whose command is encoded as its opcode alone. -/
theorem encode_of_formatN {j : Instr} (hj : encode j = place 28 (BitVec.ofNat 4 n)) (h : formatN w j = .ok i) :
    encode i = w := by
  obtain ⟨hw, rfl⟩ := layout_of_formatN hop h
  exact hj.trans hw

end

/-- Settles O2: OP picks one arm of `decode`, and that arm's format accepts only the word its command
is laid out as. -/
theorem encodeOfDecodedWord : Obligations.EncodeOfDecodedWord := by
  intro w i h
  unfold decode at h
  split at h
  case h_1 hop | h_2 hop | h_4 hop | h_6 hop | h_9 hop | h_10 hop | h_12 hop | h_13 hop | h_15 hop =>
    exact encode_of_formatN hop rfl h
  case h_3 hop =>
    obtain ⟨c, hw, rfl⟩ := layout_of_formatB hop h
    exact hw
  case h_5 hop =>
    obtain ⟨k, hw, rfl⟩ := layout_of_formatI hop h
    exact hw
  case h_7 hop | h_8 hop =>
    obtain ⟨k, v, hw, rfl⟩ := layout_of_formatIB hop h
    exact hw
  case h_11 hop =>
    obtain ⟨hw, rfl⟩ | ⟨thr, hw, rfl⟩ := layout_of_formatT hop h
    · exact hw
    · exact hw
  case h_14 hop =>
    obtain ⟨sel, k, hw, rfl⟩ := layout_of_formatSI hop h
    exact hw
  case h_16 =>
    have hop : (opField w).toNat = 15 := by
      have hlt := (opField w).isLt
      simp only [imp_false] at *
      omega
    cases h
    exact place_opcode_or_place_rest hop

/-! The rows of the opcode map (R69). -/

/-- Two rows whose patterns differ in a bit that both masks hold are selected by no word together: the
word would have both values there. -/
theorem not_selects_both (r r' : OpcodeRow) (hne : r.pattern &&& r'.mask ≠ r'.pattern &&& r.mask) (w : Word) :
    ¬ (r.selects w = true ∧ r'.selects w = true) := by
  rintro ⟨h, h'⟩
  simp only [OpcodeRow.selects, beq_iff_eq] at h h'
  apply hne
  calc r.pattern &&& r'.mask = w &&& r.mask &&& r'.mask := by rw [h]
    _ = w &&& r'.mask &&& r.mask := by rw [BitVec.and_assoc, BitVec.and_assoc, BitVec.and_comm r.mask]
    _ = r'.pattern &&& r.mask := by rw [h']

/-- Settles O3: the 17 rows' patterns are compared pair by pair as `not_selects_both` asks. -/
theorem opcodeRowsDisjoint : Obligations.OpcodeRowsDisjoint := by
  have hpatterns : (commandRows ++ [reservedRow]).Pairwise fun r r' =>
      r.pattern &&& r'.mask ≠ r'.pattern &&& r.mask := by decide
  exact hpatterns.imp fun hne => not_selects_both _ _ hne

end Sys2Proof

/-! The distance at its extremes (40_datapath.md R81, R82). -/

namespace Sys2Proof.Machine

/-- POPC is 0 only where no bit is set. -/
theorem popc_eq_zero_iff (x : Byte) : (popc x).toNat = 0 ↔ x = 0 := by
  rw [popc_toNat, List.length_eq_zero_iff, List.filter_eq_nil_iff]
  constructor
  · intro h
    ext i hi
    simpa [BitVec.getLsbD_eq_getElem hi] using h i (by simpa using hi)
  · rintro rfl
    simp

/-- POPC is 8 only where every bit is set. -/
theorem popc_eq_eight_iff (x : Byte) : (popc x).toNat = 8 ↔ ∀ i ∈ List.range 8, x.getLsbD i = true := by
  rw [popc_toNat]
  exact List.length_filter_eq_length_iff (l := List.range 8)

/-- Two bytes differ in all 8 bits exactly when one is the other's complement. -/
theorem popc_xor_eq_eight_iff (x y : Byte) : (popc (x ^^^ y)).toNat = 8 ↔ y = ~~~ x := by
  rw [popc_eq_eight_iff]
  constructor
  · intro h
    ext i hi
    have hdiffer : x[i] ≠ y[i] := by
      simpa [BitVec.getLsbD_eq_getElem hi] using h i (by simpa using hi)
    rw [BitVec.getElem_not]
    exact Bool.eq_not.mpr hdiffer.symm
  · rintro rfl i hi
    simp [List.mem_range.mp hi]

/-- The distance as a sum over the byte positions (R81). -/
theorem distance_eq_sum (a b : Digest) : distance a b = ∑ k : Fin 32, (popc (a[k] ^^^ b[k])).toNat := by
  rw [distance, ← List.sum_ofFn]
  congr 1
  apply List.ext_getElem
  · simp
  · intro k hk _
    rw [List.getElem_zipWith, List.getElem_ofFn]
    rfl

/-- The distance is 0 only between equal digests. -/
theorem distance_eq_zero_iff (a b : Digest) : distance a b = 0 ↔ a = b := by
  calc distance a b = 0 ↔ ∀ k : Fin 32, (popc (a[k] ^^^ b[k])).toNat = 0 := by
        simp [distance_eq_sum]
    _ ↔ ∀ k : Fin 32, a[k] = b[k] := by simp only [popc_eq_zero_iff, BitVec.ofNat_eq_ofNat, BitVec.xor_eq_zero_iff]
    _ ↔ a = b := by rw [Vector.ext_iff, Fin.forall_iff]; rfl

/-- The distance is 256 only when all 32 byte positions reach their bound of 8 (`popc_le`). -/
theorem distance_eq_256_iff (a b : Digest) : distance a b = 256 ↔ ∀ k : Fin 32, b[k] = ~~~ a[k] := by
  have hbound : ∀ k ∈ (Finset.univ : Finset (Fin 32)), (popc (a[k] ^^^ b[k])).toNat ≤ 8 := fun k _ => popc_le _
  have hall := Finset.sum_eq_sum_iff_of_le hbound
  simpa [distance_eq_sum, popc_xor_eq_eight_iff] using hall

/-- Settles O25: the range is `distance_le`, and the extremes are the distances 0 and 256. -/
theorem scoreRangeAndExtremes : Obligations.ScoreRangeAndExtremes := by
  intro a b
  have hle := distance_le a b
  rw [← distance_eq_zero_iff, ← distance_eq_256_iff]
  unfold exactScore
  omega

end Sys2Proof.Machine

/-! The words of an opcode that no command has (30_encoding.md R64, R70, R120). -/

namespace Sys2Proof.Machine

/-- In format `N` the opcode's command has the only legal word. -/
theorem illegalWord_of_formatN {w : Word} {i : Instr} (hd : decode w = formatN w i) (hne : w ≠ encode i) :
    IllegalWord w := by
  obtain ⟨j, hj⟩ | hill := decodes_or_illegalWord w
  · have hij : i = j := ((ifReservedZero_eq_ok_iff _ i j).mp (hd.symm.trans hj)).2
    exact absurd (encodeOfDecodedWord w i (hij ▸ hj)).symm hne
  · exact hill

/-- A set bit of [27:8] makes a word of format `B` illegal. -/
theorem illegalWord_of_formatB {w : Word} {f : Byte → Instr} (hd : decode w = formatB w f)
    (hres : field w 8 20 ≠ 0) : IllegalWord w :=
  illegalWord_of_decode_error w .reservedBit (by rw [hd, formatB, beq_false_of_ne hres]; rfl)

/-- A set bit of [27:5] makes a word of format `I` illegal. -/
theorem illegalWord_of_formatI {w : Word} {f : DigestIdx → Instr} (hd : decode w = formatI w f)
    (hres : field w 5 23 ≠ 0) : IllegalWord w :=
  illegalWord_of_decode_error w .reservedBit (by rw [hd, formatI, beq_false_of_ne hres]; rfl)

end Sys2Proof.Machine

namespace Sys2Proof

/-- An opcode with one operand at bit 0 is their sum: the operand has no bit at 28 or above. -/
theorem place_opcode_or_operand {n : Nat} (hn : n ≤ 28) (op : BitVec 4) (v : BitVec n) :
    place 28 op ||| place 0 v = place 28 op + v.setWidth 32 := by
  have hlow : place 0 v = v.setWidth 32 := by simp [place]
  have hdisjoint : place 28 op &&& place 0 v = 0 := by
    ext i hi
    by_cases hop : 28 ≤ i
    · have hout : n ≤ i := hn.trans hop
      simp [getElem_place _ _ _ hi, BitVec.getLsbD_of_ge v i hout]
    · simp [getElem_place _ _ _ hi, hop]
  rw [← hlow, BitVec.add_eq_or_of_and_eq_zero _ _ hdisjoint]

end Sys2Proof

/-! Accumulators with no byte, or with too few for a trigram (10_state.md R28, 40_datapath.md R78). -/

namespace Sys2Proof.Machine

section
variable {W : Nat} {b : Block W}

theorem Block.astate_eq_empty_iff : b.astate = .empty ↔ b.fin = false ∧ b.numChar = 0 := by
  unfold Block.astate
  split_ifs with hfin hnum
  · simp [hfin]
  · exact iff_of_true rfl ⟨Bool.eq_false_of_not_eq_true hfin, hnum⟩
  · exact iff_of_false nofun fun h => hnum h.2

/-- With fewer than three bytes the counters sum to 0, so each is 0. -/
theorem Block.Inv.hist_eq_zero (hinv : b.Inv) (hn : b.numChar.toNat < 3) : b.hist = Vector.replicate 256 0 := by
  have hsum : (b.hist.toList.map BitVec.toNat).sum = 0 := by
    rw [hinv.histogramSum, tripletCount, if_pos hn]
  ext1 i hi
  have hmem : b.hist[i].toNat ∈ b.hist.toList.map BitVec.toNat :=
    List.mem_map_of_mem (by simp)
  have hzero : b.hist[i].toNat = 0 := List.sum_eq_zero_iff.mp hsum _ hmem
  rw [Vector.getElem_replicate]
  exact BitVec.eq_of_toNat_eq (by simpa using hzero)

/-- No counter at 0 is over the threshold, so an empty histogram's digest has no bit set. -/
theorem digitize_replicate_zero (w n : Nat) :
    digitize (Vector.replicate 256 0#w) n = Vector.replicate 32 0 := by
  unfold digitize
  have hkeep : ∀ d : Digest, ∀ bucket ∈ (Vector.replicate 256 0#w).toList.zipIdx,
      (if overThreshold bucket.1.toNat (tripletCount n) then setDigestBit d bucket.2 else d) = d := by
    intro d bucket hbucket
    have hzero : bucket.1 = 0#w := by
      rw [Vector.toList_replicate] at hbucket
      exact List.eq_of_mem_replicate (List.fst_mem_of_mem_zipIdx hbucket)
    simp [hzero, overThreshold]
  exact (List.foldl_ext _ (fun d _ => d) _ hkeep).trans (List.foldl_fixed _)

/-- Finalizing fewer than three bytes gives the zero digest, now or when FIN was set (R80). -/
theorem Block.Inv.finalize_of_lt_three (hinv : b.Inv) (hn : b.numChar.toNat < 3) :
    b.finalize = { b with digest := Vector.replicate 32 0, fin := true } := by
  have hdigest : digitize b.hist b.numChar.toNat = Vector.replicate 32 0 := by
    rw [hinv.hist_eq_zero hn, BitVec.ofNat_eq_ofNat, digitize_replicate_zero]
  cases hfin : b.fin with
  | false => rw [Block.finalize_of_not_fin b hfin, hdigest]
  | true => rw [Block.finalize_of_fin b hfin, ← hdigest, ← hinv.digestCached hfin, ← hfin]

/-- ACC_CLEAR writes to an Empty accumulator what it holds (R85). -/
theorem Block.Inv.clearAccumulator_of_empty (hinv : b.Inv) (hempty : b.astate = .empty) :
    b.clearAccumulator = b := by
  obtain ⟨hfin, hnum⟩ := Block.astate_eq_empty_iff.mp hempty
  have hwlen : b.wlen = 0 := BitVec.eq_of_toNat_eq (by simp [hinv.windowLength, hnum])
  have hhist := hinv.hist_eq_zero (by simp [hnum])
  have hdigest := hinv.emptyDigest hnum
  obtain ⟨h0, h1, h2, h3⟩ := hinv.windowZero
  simp only [hwlen, BitVec.ofNat_eq_ofNat, BitVec.toNat_zero, Nat.zero_le, forall_const] at h0 h1 h2 h3
  cases b
  simp_all [Block.clearAccumulator]

end

/-! Construction (44_host_interface.md R112). -/

theorem ingestChunks_bytes (buffers : List (List Byte)) :
    ingestChunks (buffers.map .bytes) = (ingestBytes buffers.flatten, none) := by
  induction buffers with
  | nil => rfl
  | cons bs rest ih => simp [ingestChunks, Chunk.toBytes, ih, ingestBytes]

/-- Settles O28: the accumulator's fields are written by `Block.clearAccumulator`, which is the identity
on an Empty accumulator. -/
theorem clearEmptiesAccumulator : Obligations.ClearEmptiesAccumulator := by
  refine ⟨by decide, fun w hop hne => ?_, fun s => rfl, fun s hinv hempty => ?_, fun buffers => ?_⟩
  · exact illegalWord_of_formatN (i := .accClear) (by simp [decode, hop]) hne
  · have hclear := hinv.clearAccumulator_of_empty hempty
    calc exec .accClear s = .next (completed s s.block.clearAccumulator 0) := rfl
      _ = .next (completed s s.block 0) := by rw [hclear]
  · rw [construct, ingestChunks_bytes]

/-! One byte in (41_accumulator.md R86 to R88). -/

/-- The active slots of R75 are those that steps 2 to 4 of R86 increment, in the same order. -/
theorem activeBuckets_eq_ingestSteps (len : Nat) (w0 w1 w2 w3 c : Byte) :
    activeBuckets len w0 w1 w2 w3 c = ingestSteps len w0 w1 w2 w3 c := by
  obtain hshort | rfl | rfl | hfull : len < 2 ∨ len = 2 ∨ len = 3 ∨ 4 ≤ len := by omega
  · have h2 : ¬ 2 ≤ len := by omega
    have h3 : ¬ 3 ≤ len := by omega
    have h4 : ¬ 4 ≤ len := by omega
    simp [activeBuckets, ingestSteps, slotTable, h2, h3, h4]
  · rfl
  · rfl
  · have h2 : 2 ≤ len := by omega
    have h3 : 3 ≤ len := by omega
    simp [activeBuckets, ingestSteps, slotTable, h2, h3, hfull]

/-- A byte has eight slots (R75). -/
theorem length_activeBuckets_le (len : Nat) (w0 w1 w2 w3 c : Byte) :
    (activeBuckets len w0 w1 w2 w3 c).length ≤ 8 := by
  rw [activeBuckets, List.length_map]
  exact List.length_filter_le _ _

/-- At most eight increments per byte ingested (R76). -/
theorem tripletCount_le (n : Nat) : tripletCount n ≤ 8 * n := by
  unfold tripletCount
  split_ifs <;> omega

section
variable {W : Nat} {b : Block W}

/-- A counter is at most the sum of all counters, so at most eight times the byte count (R90). -/
theorem Block.Inv.hist_le (hinv : b.Inv) (i : Fin 256) : b.hist[i].toNat ≤ 8 * b.numChar.toNat := by
  have hmem : b.hist[i].toNat ∈ b.hist.toList.map BitVec.toNat := List.mem_map_of_mem (by simp)
  calc b.hist[i].toNat ≤ (b.hist.toList.map BitVec.toNat).sum := List.le_sum_of_mem hmem
    _ = tripletCount b.numChar.toNat := hinv.histogramSum
    _ ≤ 8 * b.numChar.toNat := tripletCount_le _

/-- Below the count limit NUM_CHAR does not wrap. -/
theorem Block.ingest_numChar_toNat (c : Byte) (hn : b.numChar.toNat + 1 < 2 ^ W) :
    (b.ingest c).numChar.toNat = b.numChar.toNat + 1 := by
  have hone : (1 : BitVec W).toNat = 1 := Nat.mod_eq_of_lt (by omega : 1 < 2 ^ W)
  rw [Block.ingest_numChar, BitVec.toNat_add_of_lt (by rwa [hone]), hone]

/-- Below the count limit a counter grows by exactly the number of active slots that select its bucket:
the eight that a byte can add still fit in the counter's W + 3 bits (R88, R90). -/
theorem Block.Inv.ingest_hist_toNat (hinv : b.Inv) (c : Byte) (hn : b.numChar.toNat + 1 < 2 ^ W) (i : Fin 256) :
    (b.ingest c).hist[i].toNat = b.hist[i].toNat + (b.bucketsFor c).count (BitVec.ofNat 8 i.val) := by
  have hold := hinv.hist_le i
  have hgrow : (b.bucketsFor c).count (BitVec.ofNat 8 i.val) ≤ 8 :=
    List.count_le_length.trans (length_activeBuckets_le ..)
  have hwidth : 2 ^ (W + 3) = 8 * 2 ^ W := by ring
  rw [Block.ingest_hist, bumpBuckets_toNat, Nat.mod_eq_of_lt (by omega)]

end

theorem exec_accIngest_of_full (s : State) (c : Byte) (hfull : s.block.numChar.toNat = 2 ^ s.cfg.W - 1) :
    exec (.accIngest c) s = .next (rejected s 3) := by
  simp only [exec, execAccIngest, Block.countFull, hfull, beq_self_eq_true, if_true]
  rfl

theorem exec_accIngest_of_not_full (s : State) (c : Byte) (hroom : s.block.numChar.toNat ≠ 2 ^ s.cfg.W - 1) :
    exec (.accIngest c) s = .next (completed s (s.block.ingest c) 0) := by
  simp only [exec, execAccIngest, Block.countFull, beq_false_of_ne hroom]
  rfl

/-- Settles O29: at the limit and below it by the two `exec_accIngest` lemmas; the exact growth below the
limit is `Block.ingest_numChar_toNat`, `growWindow_toNat` and `Block.Inv.ingest_hist_toNat`. -/
theorem ingestTakesOneByte : Obligations.IngestTakesOneByte := by
  refine ⟨place_opcode_or_operand (by decide) 0x2, fun w hop hres => ?_, exec_accIngest_of_full,
    fun s c hroom => ?_⟩
  · exact illegalWord_of_formatB (f := .accIngest) (by simp [decode, hop]) hres
  · have hn : s.block.numChar.toNat + 1 < 2 ^ s.cfg.W := by
      have hlt := s.block.numChar.isLt
      omega
    refine ⟨s.block.ingest c, exec_accIngest_of_not_full s c hroom, rfl, Block.ingest_numChar_toNat c hn,
      growWindow_toNat _, fun hinv i => ?_⟩
    rw [← activeBuckets_eq_ingestSteps]
    exact hinv.ingest_hist_toNat c hn i

/-! Finalizing and reading (41_accumulator.md R93 to R95). -/

theorem exec_accFinalize (s : State) : exec .accFinalize s = .next (completed s s.block.finalize 0) := rfl

theorem exec_accRddig (k : DigestIdx) (s : State) :
    exec (.accRddig k) s = .next (completed s s.block.finalize
      ((s.block.finalize.digest.toList.getD k.toNat 0).setWidth 32)) := by
  rw [← readByte_eq]
  rfl

/-- Settles O32: `Block.finalize` with FIN set, with FIN clear, and with too few bytes for a trigram. -/
theorem finalizeComputesOrKeepsDigest : Obligations.FinalizeComputesOrKeepsDigest := by
  refine ⟨by decide, fun w hop hne => ?_, fun s hfin => ?_, fun s hfin => ?_, fun s hinv hn => ?_⟩
  · exact illegalWord_of_formatN (i := .accFinalize) (by simp [decode, hop]) hne
  · rw [exec_accFinalize, Block.finalize_of_fin _ hfin]
  · rw [exec_accFinalize, Block.finalize_of_not_fin _ hfin]
  · rw [exec_accFinalize, hinv.finalize_of_lt_three hn]

/-- Settles O33: the byte read is the finalized digest's; an Empty accumulator's digest is zero and stays so. -/
theorem rddigReturnsDigestByte : Obligations.RddigReturnsDigestByte := by
  refine ⟨place_opcode_or_operand (by decide) 0x4, fun w hop hres => ?_, fun s k hfin => ?_,
    fun s k hfin => ?_, fun s k hinv hempty => ?_⟩
  · exact illegalWord_of_formatI (f := .accRddig) (by simp [decode, hop]) hres
  · rw [exec_accRddig, Block.finalize_of_fin _ hfin]
  · rw [exec_accRddig, Block.finalize_of_not_fin _ hfin]
  · obtain ⟨-, hnum⟩ := Block.astate_eq_empty_iff.mp hempty
    have hbyte : ((Vector.replicate 32 (0 : Byte)).toList.getD k.toNat 0).setWidth 32 = (0 : Word) := by
      rw [← readByte_eq, readByte, Vector.getElem_replicate]
      rfl
    rw [exec_accRddig, hinv.finalize_of_lt_three (by simp [hnum]), hbyte, ← hinv.emptyDigest hnum]

/-- Settles O34: W is at most 32, so RDATA holds the whole count (`zext32_toNat`). -/
theorem rdcntReturnsCount : Obligations.RdcntReturnsCount := by
  refine ⟨by decide, fun w hop hne => ?_, fun s => ?_⟩
  · exact illegalWord_of_formatN (i := .accRdcnt) (by simp [decode, hop]) hne
  · exact ⟨_, rfl, zext32_toNat _ s.cfg.legal.2⟩

end Sys2Proof.Machine

/-! The comparator's words (30_encoding.md R64 to R68, R70). -/

namespace Sys2Proof

/-- An operand placed over bits that are 0 is added to the word. -/
theorem or_place_eq_add {n : Nat} (w : Word) (lo : Nat) (v : BitVec n) (hfree : field w lo n = 0) :
    w ||| place lo v = w + place lo v := by
  have hdisjoint : w &&& place lo v = 0 := by
    ext i hi
    obtain hbelow | ⟨hlo, hin⟩ | hout : ¬ lo ≤ i ∨ (lo ≤ i ∧ i - lo < n) ∨ n ≤ i - lo := by omega
    · simp [getElem_place _ _ _ hi, hbelow]
    · have hbit := congrArg (fun u : BitVec n => u[i - lo]) hfree
      simp only [getElem_field, Nat.add_sub_cancel' hlo, BitVec.getLsbD_eq_getElem hi] at hbit
      simp [hbit]
    · simp [getElem_place _ _ _ hi, BitVec.getLsbD_of_ge v _ hout]
  rw [BitVec.add_eq_or_of_and_eq_zero _ _ hdisjoint]

/-- `or_place_eq_add` for an operand at bit 0, which is placed as it is. -/
theorem or_place_low_eq_add {n : Nat} (w : Word) (v : BitVec n) (hfree : field w 0 n = 0) :
    w ||| place 0 v = w + v.setWidth 32 := by
  simpa [place] using or_place_eq_add w 0 v hfree

/-- The sum of format `IB`: IDX counts in units of 256 (R64). -/
theorem place_opcode_or_idx_or_byte (op : BitVec 4) (k : DigestIdx) (v : Byte) :
    place 28 op ||| place 8 k ||| place 0 v = place 28 op + k.setWidth 32 * 256 + v.setWidth 32 := by
  have hidx : place 8 k = k.setWidth 32 * 256 := BitVec.shiftLeft_eq_mul_twoPow _ _
  rw [or_place_low_eq_add _ v (by simp), or_place_eq_add _ 8 k (by simp), hidx]

end Sys2Proof

namespace Sys2Proof.Machine

/-- A set bit of [27:13] makes a word of format `IB` illegal. -/
theorem illegalWord_of_formatIB {w : Word} {f : DigestIdx → Byte → Instr} (hd : decode w = formatIB w f)
    (hres : field w 13 15 ≠ 0) : IllegalWord w :=
  illegalWord_of_decode_error w .reservedBit (by rw [hd, formatIB, beq_false_of_ne hres]; rfl)

/-- A set bit of [27:9] or [7:5] makes a word of format `SI` illegal. -/
theorem illegalWord_of_formatSI {w : Word} {f : OperandReg → DigestIdx → Instr}
    (hd : decode w = formatSI w f) (hres : field w 9 19 ≠ 0 ∨ field w 5 3 ≠ 0) : IllegalWord w := by
  have hreserved : (field w 9 19 == 0 && field w 5 3 == 0) = false := by
    simpa [imp_iff_not_or] using hres
  exact illegalWord_of_decode_error w .reservedBit (by rw [hd, formatSI, hreserved]; rfl)

/-- A set bit of [27:10], or a threshold that TE does not enable, makes a word of format `T` illegal. -/
theorem illegalWord_of_formatT {w : Word} {noThreshold : Instr} {f : Nine → Instr}
    (hd : decode w = formatT w noThreshold f)
    (hres : field w 10 18 ≠ 0 ∨ (field w 9 1 = 0 ∧ field w 0 9 ≠ 0)) : IllegalWord w := by
  by_cases hzero : field w 10 18 = 0
  · obtain ⟨hte, hthr⟩ := hres.resolve_left (not_not_intro hzero)
    exact illegalWord_of_decode_error w .thresholdNotEnabled (by simp_all [formatT])
  · exact illegalWord_of_decode_error w .reservedBit (by rw [hd, formatT, if_pos (by simpa using hzero)])

end Sys2Proof.Machine

/-! Loading the operands (42_comparator.md R96 to R99). -/

namespace Sys2Proof.Machine

theorem exec_cmpLda (k : DigestIdx) (v : Byte) (s : State) : exec (.cmpLda k v) s =
    .next (completed s { s.block with cmpA := writeByte s.block.cmpA k v } 0) := rfl

theorem exec_cmpLdb (k : DigestIdx) (v : Byte) (s : State) : exec (.cmpLdb k v) s =
    .next (completed s { s.block with cmpB := writeByte s.block.cmpB k v } 0) := rfl

theorem exec_cmpCpya (s : State) : exec .cmpCpya s =
    .next (completed s { s.block.finalize with cmpA := s.block.finalize.digest } 0) := rfl

theorem exec_cmpCpyb (s : State) : exec .cmpCpyb s =
    .next (completed s { s.block.finalize with cmpB := s.block.finalize.digest } 0) := rfl

/-- `getElem_writeByte` for an index into the digest. -/
theorem getElem_writeByte_fin (d : Digest) (k : DigestIdx) (v : Byte) (j : Fin 32) :
    (writeByte d k v)[j] = if j.val = k.toNat then v else d[j] := by
  simpa [eq_comm] using getElem_writeByte d k v j.val j.isLt

/-- Finalizing an Empty accumulator only sets FIN: its DIGEST is the zero digest already (R80). -/
theorem Block.Inv.finalize_of_empty {W : Nat} {b : Block W} (hinv : b.Inv) (hempty : b.astate = .empty) :
    b.finalize = { b with fin := true } ∧ b.digest = Vector.replicate 32 0 := by
  obtain ⟨-, hnum⟩ := Block.astate_eq_empty_iff.mp hempty
  have hdigest := hinv.emptyDigest hnum
  rw [hinv.finalize_of_lt_three (by simp [hnum]), ← hdigest]
  exact ⟨rfl, rfl⟩

/-- Settles O38: the one byte is the one that `writeByte` writes. -/
theorem ldaWritesOneByte : Obligations.LdaWritesOneByte := by
  refine ⟨place_opcode_or_idx_or_byte 0x6, fun w hop hres => ?_, fun s k v => ?_⟩
  · exact illegalWord_of_formatIB (f := .cmpLda) (by simp [decode, hop]) hres
  · exact ⟨_, exec_cmpLda k v s, getElem_writeByte_fin _ k v⟩

/-- Settles O39, as O38 with operand B. -/
theorem ldbWritesOneByte : Obligations.LdbWritesOneByte := by
  refine ⟨place_opcode_or_idx_or_byte 0x7, fun w hop hres => ?_, fun s k v => ?_⟩
  · exact illegalWord_of_formatIB (f := .cmpLdb) (by simp [decode, hop]) hres
  · exact ⟨_, exec_cmpLdb k v s, getElem_writeByte_fin _ k v⟩

/-- Settles O40: `Block.finalize` with FIN set, with FIN clear, and in Empty state. -/
theorem cpyaCopiesDigest : Obligations.CpyaCopiesDigest := by
  refine ⟨by decide, fun w hop hne => ?_, fun s hfin => ?_, fun s hfin => ?_, fun s hinv hempty => ?_⟩
  · exact illegalWord_of_formatN (i := .cmpCpya) (by simp [decode, hop]) hne
  · rw [exec_cmpCpya, Block.finalize_of_fin _ hfin]
  · rw [exec_cmpCpya, Block.finalize_of_not_fin _ hfin]
  · obtain ⟨hfinalize, hdigest⟩ := hinv.finalize_of_empty hempty
    rw [exec_cmpCpya, hfinalize, ← hdigest]

/-- Settles O41, as O40 with operand B. -/
theorem cpybCopiesDigest : Obligations.CpybCopiesDigest := by
  refine ⟨by decide, fun w hop hne => ?_, fun s hfin => ?_, fun s hfin => ?_, fun s hinv hempty => ?_⟩
  · exact illegalWord_of_formatN (i := .cmpCpyb) (by simp [decode, hop]) hne
  · rw [exec_cmpCpyb, Block.finalize_of_fin _ hfin]
  · rw [exec_cmpCpyb, Block.finalize_of_not_fin _ hfin]
  · obtain ⟨hfinalize, hdigest⟩ := hinv.finalize_of_empty hempty
    rw [exec_cmpCpyb, hfinalize, ← hdigest]

end Sys2Proof.Machine

/-! Comparing the operands (42_comparator.md R100 to R102, 40_datapath.md R83, R84). -/

namespace Sys2Proof.Machine

theorem thresholdLegal_iff (thr : Nine) :
    thresholdLegal (thresholdOf thr) = true ↔ -128 ≤ thr.toInt ∧ thr.toInt ≤ 128 := by
  simp only [thresholdLegal, Bool.and_eq_true, decide_eq_true_eq]
  rfl

theorem exec_cmpRun (s : State) : exec .cmpRun s = .next (completed s (s.block.compare none)
    (sext32 (scoreBits (s.block.compareResult none).1))) := rfl

theorem exec_cmpRunThr_of_legal (s : State) (thr : Nine) (hlegal : thresholdLegal (thresholdOf thr) = true) :
    exec (.cmpRunThr thr) s = .next (completed s (s.block.compare (some (thresholdOf thr)))
      (sext32 (scoreBits (s.block.compareResult (some (thresholdOf thr))).1))) :=
  if_pos hlegal

theorem exec_cmpRunThr_of_illegal (s : State) (thr : Nine) (hillegal : ¬ (-128 ≤ thr.toInt ∧ thr.toInt ≤ 128)) :
    exec (.cmpRunThr thr) s = .next (rejected s 2) :=
  if_neg (mt (thresholdLegal_iff thr).mp hillegal)

/-- A CMP_RUN with a legal threshold, or with none, compares under one threshold in every state. -/
theorem exec_run_of_legal {i : Instr}
    (hrun : i = .cmpRun ∨ ∃ thr, i = .cmpRunThr thr ∧ thresholdLegal (thresholdOf thr) = true) :
    ∃ t : Option Int, ∀ s : State, exec i s = .next (completed s (s.block.compare t)
      (sext32 (scoreBits (s.block.compareResult t).1))) := by
  obtain rfl | ⟨thr, rfl, hlegal⟩ := hrun
  · exact ⟨none, exec_cmpRun⟩
  · exact ⟨some (thresholdOf thr), fun s => exec_cmpRunThr_of_legal s thr hlegal⟩

/-- SCORE and RDATA hold a result in range exactly (R32, R16). -/
theorem score_and_rdata_exact {r : Int} (hr : -128 ≤ r ∧ r ≤ 128) :
    (scoreBits r).toInt = r ∧ (sext32 (scoreBits r)).toInt = (scoreBits r).toInt ∧
      -128 ≤ (sext32 (scoreBits r)).toInt ∧ (sext32 (scoreBits r)).toInt ≤ 128 := by
  rw [sext32_toInt, scoreBits_toInt r hr.1 hr.2]
  exact ⟨rfl, rfl, hr⟩

/-- The early exit as R83 writes it: taken when the distance exceeds 128 - T. -/
theorem compareResult_some {W : Nat} (b : Block W) (t : Int) :
    b.compareResult (some t) =
      (if (distance b.cmpA b.cmpB : Int) > 128 - t then t - 1 else 128 - (distance b.cmpA b.cmpB : Int),
        decide ((distance b.cmpA b.cmpB : Int) > 128 - t)) := by
  simp only [Block.compareResult, early, exactScore]
  split_ifs with hexit <;> simp [hexit]

/-- Settles O42: the result of each kind of CMP_RUN is `early`'s, and SCORE and RDATA hold it exactly. -/
theorem runScoresOperands : Obligations.RunScoresOperands := by
  refine ⟨by decide, fun thr => ?_, fun w hop hres => ?_, fun s => ?_, fun s thr hlow hhigh => ?_,
    exec_cmpRunThr_of_illegal⟩
  · exact or_place_low_eq_add 0xA0000200 thr (by decide)
  · exact illegalWord_of_formatT (noThreshold := .cmpRun) (f := .cmpRunThr) (by simp [decode, hop]) hres
  · exact ⟨_, _, exec_cmpRun s, score_and_rdata_exact (compareResult_range s.block none nofun)⟩
  · have hlegal := (thresholdLegal_iff thr).mpr ⟨hlow, hhigh⟩
    have hresult := compareResult_some s.block (thresholdOf thr)
    obtain ⟨hscore, hdata⟩ :=
      score_and_rdata_exact (compareResult_range s.block (some (thresholdOf thr)) (by simpa using hlegal))
    refine ⟨_, _, ?_, hscore.trans (congrArg Prod.fst hresult), hdata⟩
    rw [exec_cmpRunThr_of_legal s thr hlegal, Block.compare, congrArg Prod.snd hresult]
    rfl

/-- Settles O45: `Block.compareResult` reads the operands and the threshold only. -/
theorem runDependsOnlyOnOperands : Obligations.RunDependsOnlyOnOperands := by
  intro s u i hrun hA hB
  obtain ⟨t, hexec⟩ := exec_run_of_legal hrun
  have hresult : s.block.compareResult t = u.block.compareResult t := by
    simp only [Block.compareResult, hA, hB]
  refine ⟨_, _, _, hexec s, ?_⟩
  rw [hexec u, Block.compare, hresult]

end Sys2Proof.Machine

/-! Reading the comparator (42_comparator.md R103, R104). -/

namespace Sys2Proof.Machine

theorem exec_cmpRdop (sel : OperandReg) (k : DigestIdx) (s : State) : exec (.cmpRdop sel k) s =
    .next (completed s s.block (zext32 (readByte (s.block.operand sel) k))) := rfl

theorem exec_rdScore (s : State) :
    exec .rdScore s = .next (completed s s.block (sext32 s.block.score)) := rfl

theorem operand_reset (W : Nat) (sel : OperandReg) :
    (Block.reset W).operand sel = Vector.replicate 32 0 := by
  cases sel <;> rfl

theorem readByte_replicate (v : Byte) (k : DigestIdx) : readByte (Vector.replicate 32 v) k = v :=
  Vector.getElem_replicate _

/-- Settles O46: `readByte` reads the operand that SEL names, and reset sets both to zero. -/
theorem rdopReturnsOperandByte : Obligations.RdopReturnsOperandByte := by
  refine ⟨fun k => ⟨or_place_low_eq_add 0xD0000000 k (by decide), or_place_low_eq_add 0xD0000100 k (by decide)⟩,
    fun w hop hres => ?_, fun s k => ?_, fun sel k => ?_⟩
  · exact illegalWord_of_formatSI (f := .cmpRdop) (by simp [decode, hop]) hres
  · rw [← readByte_eq, ← readByte_eq]
    exact ⟨exec_cmpRdop .cmpA k s, exec_cmpRdop .cmpB k s⟩
  · have hzero : readByte (State.reset.block.operand sel) k = 0 := by
      rw [State.reset, operand_reset, readByte_replicate]
    rw [exec_cmpRdop, hzero]
    rfl

/-- Settles O47: sign extension keeps the score's value, and a rejection writes the error record only. -/
theorem rdScoreReturnsScore : Obligations.RdScoreReturnsScore := by
  refine ⟨by decide, fun w hop hne => ?_, fun s => ?_, ?_, fun s thr hillegal => ?_⟩
  · exact illegalWord_of_formatN (i := .rdScore) (by simp [decode, hop]) hne
  · exact ⟨_, exec_rdScore s, sext32_toInt _⟩
  · rw [exec_rdScore]
    rfl
  · exact ⟨_, exec_cmpRunThr_of_illegal s thr hillegal, rfl⟩

end Sys2Proof.Machine

/-! The control commands (43_control.md R105 to R108). -/

namespace Sys2Proof.Machine

theorem exec_nop (s : State) : exec .nop s = .next (completed s s.block 0) := rfl

theorem exec_rdStatus (s : State) :
    exec .rdStatus s = .next (completed s s.block s.block.statusWord) := rfl

theorem exec_stClear (s : State) : exec .stClear s =
    .next (completed s { s.block with err := false, errCode := 0 } 0) := rfl

theorem exec_reservedF (rest : BitVec 28) (s : State) :
    exec (.reservedF rest) s = .next (rejected s 1) := rfl

/-- The default arm of `decode` is the reserved opcode's (R108). -/
theorem decode_of_reserved_opcode {w : Word} (hop : opField w = 0xF) :
    decode w = .ok (.reservedF (field w 0 28)) := by
  simp [decode, hop]

/-- A word of the reserved opcode decodes, and its command is rejected with ILLEGAL_COMMAND (R108). -/
theorem illegalWord_of_reserved_opcode (w : Word) (hop : opField w = 0xF) : IllegalWord w := by
  intro s rest hin
  rw [step_of_decode_ok s w rest _ hin (decode_of_reserved_opcode hop), exec_reservedF]

/-- Settles O7: the decoder's last arm, and what it runs. -/
theorem reservedOpcodeRejected : Obligations.ReservedOpcodeRejected :=
  ⟨illegalWord_of_reserved_opcode, exec_reservedF,
    illegalWord_of_reserved_opcode _ (by decide), illegalWord_of_reserved_opcode _ (by decide)⟩

/-- Settles O48: format `N` leaves the opcode one legal word, and NOP answers 0. -/
theorem nopDoesNothing : Obligations.NopDoesNothing := by
  refine ⟨by decide, fun w hop hne => ?_, exec_nop⟩
  exact illegalWord_of_formatN (i := .nop) (by simp [decode, hop]) hne

/-- With ERR = 0 the invariant has ERRCODE = 0 too, so there is nothing to clear (R34, R107). -/
theorem Block.Inv.clearError_of_not_err {W : Nat} {b : Block W} (hinv : b.Inv) (herr : b.err = false) :
    b.clearError = b := by
  have hcode : b.errCode = 0 := hinv.errorCode.2.mpr herr
  rw [Block.clearError, ← herr, ← hcode]

/-- Settles O50: `Block.clearError`'s two values, and under the invariant with ERR = 0 no change. -/
theorem stClearClearsErrorRecord : Obligations.StClearClearsErrorRecord := by
  refine ⟨by decide, fun w hop hne => ?_, exec_stClear, fun s hinv herr => ?_⟩
  · exact illegalWord_of_formatN (i := .stClear) (by simp [decode, hop]) hne
  · have hkeep : { s.block with err := false, errCode := 0 } = s.block := hinv.clearError_of_not_err herr
    rw [exec_stClear, hkeep]

section
variable {W : Nat} (b : Block W)

/-- ASTATE's encoding, with NUM_CHAR read as a number (R28). -/
theorem Block.astate_bits :
    b.astate.bits = if b.fin then 2#2 else if b.numChar.toNat = 0 then 0#2 else 1#2 := by
  have hzero : b.numChar = 0 ↔ b.numChar.toNat = 0 := BitVec.toNat_eq
  simp only [Block.astate, hzero]
  split_ifs <;> rfl

/-- The STATUS word field by field (R35): each field lies wholly inside one of the parts that R106 puts
together, so the parts below it are passed over. The parts' widths stay sums, as the append lemmas need. -/
theorem Block.statusWord_fields :
    b.statusWord.extractLsb' 0 2 = b.astate.bits ∧ b.statusWord.getLsbD 2 = b.ee ∧
    b.statusWord.getLsbD 3 = false ∧ b.statusWord.getLsbD 4 = b.err ∧
    b.statusWord.extractLsb' 5 3 = 0 ∧ b.statusWord.extractLsb' 8 4 = b.errCode ∧
    b.statusWord.extractLsb' 12 4 = 0 ∧ b.statusWord.extractLsb' 16 3 = b.wlen ∧
    b.statusWord.extractLsb' 19 13 = 0 := by
  simp [Block.statusWord, flagBit, BitVec.extractLsb'_append_eq_of_le,
    BitVec.extractLsb'_append_eq_of_add_le, BitVec.getLsbD_append, -BitVec.getLsbD_eq_getElem, -Nat.reduceAdd]

end

/-- Settles O49: the fields of `Block.statusWord`, ASTATE as R28 computes it, and the word after reset. -/
theorem statusWordFields : Obligations.StatusWordFields := by
  refine ⟨by decide, fun w hop hne => ?_, fun s => ⟨_, exec_rdStatus s, ?_⟩, ?_⟩
  · exact illegalWord_of_formatN (i := .rdStatus) (by simp [decode, hop]) hne
  · rw [← Block.astate_bits]
    exact s.block.statusWord_fields
  · have hzero : State.reset.block.statusWord = 0 := by decide
    rw [exec_rdStatus, hzero]

end Sys2Proof.Machine

/-! Reading the digest out (44_host_interface.md R113). -/

namespace Sys2Proof.Machine

/-- The response to ACC_RDDIG `k` when the digest is `d` (R94). -/
def digestResponse (d : Digest) (k : DigestIdx) : Response :=
  ⟨false, (d.toList.getD k.toNat 0).setWidth 32⟩

/-- The first of the reads finalizes, and the later ones find FIN set: all return bytes of one digest. -/
theorem execAll_accRddig (k : DigestIdx) (ks : List DigestIdx) (s : State) :
    execAll ((k :: ks).map .accRddig) s = .next { s with
      block := s.block.finalize
      responses := s.responses ++ (k :: ks).map (digestResponse s.block.finalize.digest) } := by
  induction ks generalizing k s with
  | nil => simp only [List.map, execAll, exec_accRddig]; rfl
  | cons j js ih =>
    rw [List.map_cons, execAll, exec_accRddig]
    simp only [ih, completed, Block.finalize_finalize]
    simp [digestResponse]

/-- No read-out response is a rejection, and RDATA[7:0] is the byte read (R109, R113). -/
theorem digestOfResponses_digestResponse (d : Digest) (ks : List DigestIdx) :
    digestOfResponses (ks.map (digestResponse d)) = .ok (ks.map fun k => d.toList.getD k.toNat 0) := by
  induction ks with
  | nil => rfl
  | cons k ks ih => simp [digestOfResponses, ih, checkedRdata, digestResponse]

/-- The byte indices that the read-out goes through. -/
def digestIndices : List DigestIdx := (List.range 32).map (BitVec.ofNat 5)

theorem readDigest_eq_map : readDigest = digestIndices.map .accRddig := by
  rw [readDigest, digestIndices, List.map_map]
  rfl

/-- Five bits hold every index below 32, so the bytes read are the digest's, in order. -/
theorem map_digestIndices_getD (d : Digest) :
    (digestIndices.map fun k => d.toList.getD k.toNat 0) = d.toList := by
  apply List.ext_getElem
  · simp [digestIndices]
  · intro i hi hlen
    have hi32 : i < 32 := by simpa using hlen
    simp [digestIndices, Nat.mod_eq_of_lt hi32, hi32]

/-- Settles O57: the read-out is `execAll_accRddig`, and its responses give the digest byte for byte. -/
theorem readoutReturnsDigest : Obligations.ReadoutReturnsDigest := by
  refine ⟨by simp [readDigest], fun k => by simp [readDigest], fun s => ?_⟩
  have hrun := execAll_accRddig 0 digestIndices.tail s
  have hindices : 0 :: digestIndices.tail = digestIndices := rfl
  rw [hindices, ← readDigest_eq_map] at hrun
  refine ⟨_, _, hrun, rfl, ?_, Block.finalize_fin _, fun hfin => ?_, fun hfin => ?_⟩
  · rw [digestOfResponses_digestResponse, map_digestIndices_getD]
  · rw [Block.finalize_of_not_fin _ hfin]
  · rw [Block.finalize_of_fin _ hfin]

end Sys2Proof.Machine

/-! When a command is rejected (60_exceptions.md R119 to R122), and with which code. -/

namespace Sys2Proof.Machine

/-- The causes of a command's rejection in state `s`, each with the code it is reported as (R119). A
word that is no command at all is not among them: it has no `Instr`. -/
inductive RejectionCause (s : State) : Instr → BitVec 4 → Prop
  /-- OP = 0xF (R120, R108). -/
  | illegalCommand (rest : BitVec 28) : RejectionCause s (.reservedF rest) 1
  /-- A threshold outside [-128, 128] (R121). -/
  | invalidThreshold (thr : Nine) (hillegal : ¬ (-128 ≤ thr.toInt ∧ thr.toInt ≤ 128)) :
      RejectionCause s (.cmpRunThr thr) 2
  /-- A byte at the count limit (R122). -/
  | countOverflow (c : Byte) (hfull : s.block.numChar.toNat = 2 ^ s.cfg.W - 1) :
      RejectionCause s (.accIngest c) 3

/-- What a command with a cause of rejection does. -/
theorem RejectionCause.exec_eq {s : State} {i : Instr} {code : BitVec 4} (hcause : RejectionCause s i code) :
    exec i s = .next (rejected s code) := by
  cases hcause with
  | illegalCommand rest => exact exec_reservedF rest s
  | invalidThreshold thr hillegal => exact exec_cmpRunThr_of_illegal s thr hillegal
  | countOverflow c hfull => exact exec_accIngest_of_full s c hfull

/-- A command completes, or it has a cause of rejection. -/
theorem exec_completes_or_rejectionCause (i : Instr) (s : State) :
    (∃ (b : Block s.cfg.W) (v : Word), exec i s = .next (completed s b v)) ∨ ∃ code, RejectionCause s i code := by
  cases i with
  | accIngest c =>
    by_cases hfull : s.block.numChar.toNat = 2 ^ s.cfg.W - 1
    · exact .inr ⟨_, .countOverflow c hfull⟩
    · exact .inl ⟨_, _, exec_accIngest_of_not_full s c hfull⟩
  | cmpRunThr thr =>
    by_cases hlegal : -128 ≤ thr.toInt ∧ thr.toInt ≤ 128
    · exact .inl ⟨_, _, exec_cmpRunThr_of_legal s thr ((thresholdLegal_iff thr).mpr hlegal)⟩
    · exact .inr ⟨_, .invalidThreshold thr hlegal⟩
  | reservedF rest => exact .inr ⟨_, .illegalCommand rest⟩
  | _ => exact .inl ⟨_, _, rfl⟩

/-- The code is read back from the response. -/
theorem rejected_inj {s : State} {code code' : BitVec 4} (h : rejected s code = rejected s code') :
    code = code' := by
  have hresponses := congrArg State.responses h
  have hdata : code.setWidth 32 = code'.setWidth 32 := by simpa [rejected] using hresponses
  simpa using congrArg (BitVec.setWidth 4) hdata

/-- RERR tells a completed command from a rejected one. -/
theorem completed_ne_rejected (s : State) (b : Block s.cfg.W) (v : Word) (code : BitVec 4) :
    completed s b v ≠ rejected s code := by
  intro h
  have hresponses := congrArg State.responses h
  simp [completed, rejected] at hresponses

/-- A command is rejected for one of the three causes only, and with that cause's code. -/
theorem exec_eq_rejected_iff (i : Instr) (s : State) (code : BitVec 4) :
    exec i s = .next (rejected s code) ↔ RejectionCause s i code := by
  constructor
  · intro hexec
    obtain ⟨b, v, hcompletes⟩ | ⟨code', hcause⟩ := exec_completes_or_rejectionCause i s
    · exact absurd (Host.Outcome.next.inj (hcompletes.symm.trans hexec)) (completed_ne_rejected s b v code)
    · have hsame : rejected s code' = rejected s code :=
        Host.Outcome.next.inj (hcause.exec_eq.symm.trans hexec)
      exact rejected_inj hsame ▸ hcause
  · exact RejectionCause.exec_eq

/-- Settles O31: of the causes of rejection the count limit is the one with code 3. -/
theorem ingestOverflowRejected : Obligations.IngestOverflowRejected := by
  refine ⟨exec_accIngest_of_full, fun s i hexec => ?_⟩
  have hcause := (exec_eq_rejected_iff i s 3).mp hexec
  cases hcause with
  | countOverflow c hfull => exact ⟨⟨c, rfl⟩, hfull⟩

/-- The patterns of a threshold outside [-128, 128] (R68). -/
theorem threshold_illegal_iff_pattern (thr : Nine) :
    ¬ (-128 ≤ thr.toInt ∧ thr.toInt ≤ 128) ↔ 0x081 ≤ thr.toNat ∧ thr.toNat ≤ 0x17F := by
  have hlt := thr.isLt
  rw [BitVec.toInt_eq_toNat_cond]
  split <;> omega

/-- Settles O43: of the causes of rejection an illegal threshold is the one with code 2. -/
theorem invalidThresholdExactly : Obligations.InvalidThresholdExactly := by
  refine ⟨fun s thr hlow hhigh => ?_, fun s i hexec => ?_⟩
  · exact exec_cmpRunThr_of_illegal s thr ((threshold_illegal_iff_pattern thr).mpr ⟨hlow, hhigh⟩)
  · have hcause := (exec_eq_rejected_iff i s 2).mp hexec
    cases hcause with
    | invalidThreshold thr hillegal => exact ⟨thr, rfl, (threshold_illegal_iff_pattern thr).mp hillegal⟩

end Sys2Proof.Machine

/-! Execution does not read the error record (60_exceptions.md R124). -/

namespace Sys2Proof.Machine

/-- The block with another error record. -/
def Block.withErrorRecord {W : Nat} (b : Block W) (err : Bool) (code : BitVec 4) : Block W :=
  { b with err := err, errCode := code }

theorem Block.finalize_withErrorRecord {W : Nat} (b : Block W) (err : Bool) (code : BitVec 4) :
    (b.withErrorRecord err code).finalize = b.finalize.withErrorRecord err code := by
  cases hfin : b.fin with
  | true =>
    have hfin' : (b.withErrorRecord err code).fin = true := hfin
    rw [Block.finalize_of_fin _ hfin, Block.finalize_of_fin _ hfin']
  | false =>
    have hfin' : (b.withErrorRecord err code).fin = false := hfin
    rw [Block.finalize_of_not_fin _ hfin, Block.finalize_of_not_fin _ hfin']
    rfl

/-- With another error record a command answers the same and leaves the same block but for the record;
RD_STATUS alone reads it. The commands that finalize do so by `Block.finalize_withErrorRecord`. -/
theorem exec_withErrorRecord (i : Instr) (hi : i ≠ .rdStatus) (s : State) (err : Bool) (code : BitVec 4) :
    ∃ (b b' : Block s.cfg.W) (r : Response),
      exec i s = .next (s.put b r) ∧
      exec i { s with block := s.block.withErrorRecord err code } = .next (s.put b' r) ∧
      b' = b.withErrorRecord b'.err b'.errCode := by
  have hfinalize := s.block.finalize_withErrorRecord err code
  cases i with
  | rdStatus => exact absurd rfl hi
  | accIngest c =>
    by_cases hfull : s.block.numChar.toNat = 2 ^ s.cfg.W - 1
    · exact ⟨_, _, _, exec_accIngest_of_full s c hfull, exec_accIngest_of_full _ c hfull, rfl⟩
    · exact ⟨_, _, _, exec_accIngest_of_not_full s c hfull, exec_accIngest_of_not_full _ c hfull, rfl⟩
  | cmpRunThr thr =>
    by_cases hlegal : -128 ≤ thr.toInt ∧ thr.toInt ≤ 128
    · have hlegal' := (thresholdLegal_iff thr).mpr hlegal
      exact ⟨_, _, _, exec_cmpRunThr_of_legal s thr hlegal', exec_cmpRunThr_of_legal _ thr hlegal', rfl⟩
    · exact ⟨_, _, _, exec_cmpRunThr_of_illegal s thr hlegal, exec_cmpRunThr_of_illegal _ thr hlegal, rfl⟩
  | accFinalize | accRddig k | cmpCpya | cmpCpyb =>
    simp only [exec_accFinalize, exec_accRddig, exec_cmpCpya, exec_cmpCpyb, hfinalize]
    exact ⟨_, _, _, rfl, rfl, rfl⟩
  | _ => exact ⟨_, _, _, rfl, rfl, rfl⟩

theorem RejectionCause.code_mem {s : State} {i : Instr} {code : BitVec 4} (hcause : RejectionCause s i code) :
    code ∈ [1#4, 2#4, 3#4] := by
  cases hcause with
  | illegalCommand | invalidThreshold | countOverflow => decide

/-- Settles O51: a word that is no command, the causes of rejection, and `exec_withErrorRecord`. -/
theorem rejectionsArePrecise : Obligations.RejectionsArePrecise := by
  refine ⟨fun w ⟨e, hd⟩ => illegalWord_of_decode_error w e hd, fun i s => ?_,
    fun i s err code hi => exec_withErrorRecord i hi s err code⟩
  obtain hcompletes | ⟨code, hcause⟩ := exec_completes_or_rejectionCause i s
  · exact .inl hcompletes
  · exact .inr ⟨code, hcause.code_mem, hcause.exec_eq⟩
end Sys2Proof.Machine

/-! The words that select no command row (30_encoding.md R69, R70, 60_exceptions.md R120). -/

namespace Sys2Proof

/-- What R120 lists: OP = 0xF, a reserved bit of the format of OP set, or a threshold that TE does not
enable. -/
def BreaksFormat (w : Word) : Prop :=
  opField w = 0xF ∨
  (opField w ∈ [0x0#4, 0x1#4, 0x3#4, 0x5#4, 0x8#4, 0x9#4, 0xB#4, 0xC#4, 0xE#4] ∧ field w 0 28 ≠ 0) ∨
  (opField w = 0x2 ∧ field w 8 20 ≠ 0) ∨
  (opField w = 0x4 ∧ field w 5 23 ≠ 0) ∨
  (opField w ∈ [0x6#4, 0x7#4] ∧ field w 13 15 ≠ 0) ∨
  (opField w = 0xA ∧ (field w 10 18 ≠ 0 ∨ (field w 9 1 = 0 ∧ field w 0 9 ≠ 0))) ∨
  (opField w = 0xD ∧ (field w 9 19 ≠ 0 ∨ field w 5 3 ≠ 0))

/-! A word that selects a row keeps its format. -/

section
variable {r : OpcodeRow} {w : Word} (hr : r ∈ commandRows) (hsel : r.selects w = true)
include hsel

/-- A word that selects a row has the pattern's bits in every field that the mask covers. -/
theorem field_of_selects {lo len : Nat} (hmask : field r.mask lo len = BitVec.allOnes len) :
    field w lo len = field r.pattern lo len := by
  simp only [OpcodeRow.selects, beq_iff_eq] at hsel
  have hand : field (w &&& r.mask) lo len = field w lo len &&& field r.mask lo len :=
    BitVec.extractLsb'_and
  rw [← hsel, hand, hmask, BitVec.and_allOnes]

include hr

/-- Every mask covers OP. -/
theorem opField_of_selects : opField w = opField r.pattern := by
  have hmasks : ∀ r ∈ commandRows, field r.mask 28 4 = BitVec.allOnes 4 := by decide
  exact field_of_selects hsel (hmasks r hr)

/-- A field that every row of the opcodes `ops` holds at 0. -/
theorem field_eq_zero_of_selects {ops : List (BitVec 4)} {lo len : Nat} (hop : opField w ∈ ops)
    (hrows : ∀ r ∈ commandRows, opField r.pattern ∈ ops →
      field r.mask lo len = BitVec.allOnes len ∧ field r.pattern lo len = 0) : field w lo len = 0 := by
  obtain ⟨hmask, hpattern⟩ := hrows r hr (opField_of_selects hr hsel ▸ hop)
  exact (field_of_selects hsel hmask).trans hpattern

/-- Of the two rows of OP = 0xA one holds TE at 1, the other THR at 0 (R69). -/
theorem threshold_enabled_or_zero_of_selects (hop : opField w = 0xA) : field w 9 1 = 1 ∨ field w 0 9 = 0 := by
  have hrows : ∀ r ∈ commandRows, opField r.pattern = 0xA →
      (field r.mask 9 1 = BitVec.allOnes 1 ∧ field r.pattern 9 1 = 1) ∨
      (field r.mask 0 9 = BitVec.allOnes 9 ∧ field r.pattern 0 9 = 0) := by decide
  obtain ⟨hmask, hpattern⟩ | ⟨hmask, hpattern⟩ := hrows r hr (opField_of_selects hr hsel ▸ hop)
  · exact .inl ((field_of_selects hsel hmask).trans hpattern)
  · exact .inr ((field_of_selects hsel hmask).trans hpattern)

theorem not_breaksFormat_of_selects : ¬ BreaksFormat w := by
  have hnotF : ∀ r ∈ commandRows, opField r.pattern ≠ 0xF := by decide
  rintro (hop | ⟨hop, hres⟩ | ⟨hop, hres⟩ | ⟨hop, hres⟩ | ⟨hop, hres⟩ | ⟨hop, hres | ⟨hte, hthr⟩⟩ |
    ⟨hop, hres | hres⟩)
  · exact hnotF r hr (opField_of_selects hr hsel ▸ hop)
  · exact hres (field_eq_zero_of_selects hr hsel hop (by decide))
  · exact hres (field_eq_zero_of_selects hr hsel (List.mem_singleton.mpr hop) (by decide))
  · exact hres (field_eq_zero_of_selects hr hsel (List.mem_singleton.mpr hop) (by decide))
  · exact hres (field_eq_zero_of_selects hr hsel hop (by decide))
  · exact hres (field_eq_zero_of_selects hr hsel (List.mem_singleton.mpr hop) (by decide))
  · obtain hone | hzero := threshold_enabled_or_zero_of_selects hr hsel hop
    · exact absurd (hte.symm.trans hone) (by decide)
    · exact hthr hzero
  · exact hres (field_eq_zero_of_selects hr hsel (List.mem_singleton.mpr hop) (by decide))
  · exact hres (field_eq_zero_of_selects hr hsel (List.mem_singleton.mpr hop) (by decide))

end

/-! A word that keeps its format decodes, and selects the row of its command. -/

/-- The one check of `ifReservedZero` is what failed. -/
theorem reserved_of_error {reservedZero : Bool} {i : Instr} {e : DecodeError}
    (h : ifReservedZero reservedZero i = .error e) : reservedZero = false := by
  cases reservedZero with
  | false => rfl
  | true => cases h

/-- Format `T` has two ways to be broken (R70 steps 2 and 3). -/
theorem breaks_of_formatT_error {w : Word} {noThreshold : Instr} {f : Nine → Instr} {e : DecodeError}
    (h : formatT w noThreshold f = .error e) : field w 10 18 ≠ 0 ∨ (field w 9 1 = 0 ∧ field w 0 9 ≠ 0) := by
  simp only [formatT, bne_iff_ne] at h
  split at h
  next hres => exact .inl hres
  next =>
    split at h
    · cases h
    next hte =>
      split at h
      next hthr => exact .inr ⟨(BitVec.eq_zero_or_eq_one _).resolve_right (by simpa using hte), hthr⟩
      · cases h

/-- Each check of the decoder that fails names a bit of R120's list. -/
theorem breaksFormat_of_decode_error {w : Word} {e : DecodeError} (h : decode w = .error e) : BreaksFormat w := by
  have hop {n : Nat} (hn : (opField w).toNat = n) : opField w = BitVec.ofNat 4 n := by simp [← hn]
  unfold decode at h
  split at h
  case h_11 hn => simpa [BreaksFormat, hop hn] using breaks_of_formatT_error h
  case h_14 hn => simpa [BreaksFormat, hop hn, imp_iff_not_or] using reserved_of_error h
  case h_16 => cases h
  case h_1 hn | h_2 hn | h_3 hn | h_4 hn | h_5 hn | h_6 hn | h_7 hn | h_8 hn | h_9 hn | h_10 hn | h_12 hn | h_13 hn
      | h_15 hn =>
    simpa [BreaksFormat, hop hn] using reserved_of_error h

theorem row_selects_encode (i : Instr) : i.row.selects (encode i) = true := by
  cases i with
  | nop => exact Laws.EncodedRow.nop
  | accClear => exact Laws.EncodedRow.accClear
  | accIngest c => exact Laws.EncodedRow.accIngest c
  | accFinalize => exact Laws.EncodedRow.accFinalize
  | accRddig k => exact Laws.EncodedRow.accRddig k
  | accRdcnt => exact Laws.EncodedRow.accRdcnt
  | cmpLda k v => exact Laws.EncodedRow.cmpLda k v
  | cmpLdb k v => exact Laws.EncodedRow.cmpLdb k v
  | cmpCpya => exact Laws.EncodedRow.cmpCpya
  | cmpCpyb => exact Laws.EncodedRow.cmpCpyb
  | cmpRun => exact Laws.EncodedRow.cmpRun
  | cmpRunThr thr => exact Laws.EncodedRow.cmpRunThr thr
  | rdStatus => exact Laws.EncodedRow.rdStatus
  | stClear => exact Laws.EncodedRow.stClear
  | cmpRdop sel k => exact Laws.EncodedRow.cmpRdop sel k
  | rdScore => exact Laws.EncodedRow.rdScore
  | reservedF rest => exact Laws.EncodedRow.reservedF rest

/-- The commands of the rows that `commandRows` lists are all but the reserved opcode's. -/
theorem row_mem_commandRows_or_reservedF (i : Instr) : i.row ∈ commandRows ∨ ∃ rest, i = .reservedF rest := by
  cases i with
  | reservedF rest => exact .inr ⟨rest, rfl⟩
  | _ => exact .inl (by simp [commandRows, Instr.row])

end Sys2Proof

namespace Sys2Proof.Machine

/-- A word is illegal and breaks its format, or it is a command of one of the command rows. -/
theorem illegalWord_breaksFormat_or_command (w : Word) :
    (IllegalWord w ∧ BreaksFormat w) ∨
      ∃ i, decode w = .ok i ∧ i.row ∈ commandRows ∧ i.row.selects w = true := by
  cases hd : decode w with
  | error e => exact .inl ⟨illegalWord_of_decode_error w e hd, breaksFormat_of_decode_error hd⟩
  | ok i =>
    have hword := encodeOfDecodedWord w i hd
    obtain hrow | ⟨rest, rfl⟩ := row_mem_commandRows_or_reservedF i
    · exact .inr ⟨i, rfl, hrow, hword ▸ row_selects_encode i⟩
    · have hop : opField w = 0xF := by simp [← hword, encode]
      exact .inl ⟨illegalWord_of_reserved_opcode w hop, .inl hop⟩

/-- A command of a command row is not answered with ILLEGAL_COMMAND: completed, it has RERR = 0, and the
other two causes of rejection have codes 2 and 3. -/
theorem exec_not_illegalCommand {i : Instr} (hrow : i.row ∈ commandRows) (s : State) :
    ∃ (b : Block s.cfg.W) (r : Response), exec i s = .next (s.put b r) ∧ r ≠ ⟨true, 1⟩ := by
  obtain ⟨b, v, hcompletes⟩ | ⟨code, hcause⟩ := exec_completes_or_rejectionCause i s
  · exact ⟨b, ⟨false, v⟩, hcompletes, by simp⟩
  · refine ⟨_, _, hcause.exec_eq, ?_⟩
    cases hcause with
    | illegalCommand rest =>
      have hreserved : reservedRow ∉ commandRows := by decide
      exact absurd hrow hreserved
    | invalidThreshold | countOverflow => decide

/-- Settles O4: the words that select no row are those that break their format, and a word that selects
one decodes to that row's command. -/
theorem illegalCommandExactlyUnlistedWords : Obligations.IllegalCommandExactlyUnlistedWords := by
  intro w
  obtain ⟨hill, hbreaks⟩ | ⟨i, hd, hrow, hsel⟩ := illegalWord_breaksFormat_or_command w
  · have hnone : ∀ r ∈ commandRows, r.selects w = false := fun r hr =>
      Bool.eq_false_iff.mpr fun hsel => not_breaksFormat_of_selects hr hsel hbreaks
    exact ⟨fun _ => hill, fun ⟨r, hr, hsel⟩ => absurd hbreaks (not_breaksFormat_of_selects hr hsel),
      fun _ => hbreaks, fun _ => hnone⟩
  · have hselects : ¬ ∀ r ∈ commandRows, r.selects w = false := fun hnone =>
      Bool.eq_false_iff.mp (hnone i.row hrow) hsel
    refine ⟨fun hnone => absurd hnone hselects, fun _ s rest hin => ?_, fun hnone => absurd hnone hselects,
      fun hbreaks => absurd hbreaks (not_breaksFormat_of_selects hrow hsel)⟩
    rw [step_of_decode_ok s w rest i hin hd]
    exact exec_not_illegalCommand hrow { s with input := rest }

end Sys2Proof.Machine

/-! Reset (70_reset_and_hazards.md R137). -/

namespace Sys2Proof.Machine

/-- Settles O10: from any state the step leaves the block at `Block.reset` of its own width
(`step_of_reset`), and `Block.reset`, field by field, is the table of R137. -/
theorem resetSetsEveryState : Obligations.ResetSetsEveryState := by
  refine ⟨fun s rest hin => ?_, rfl⟩
  exact ⟨{ s with input := rest, block := .reset s.cfg.W }, step_of_reset s rest hin, rfl, rfl⟩

end Sys2Proof.Machine

/-! The number of histogram increments (40_datapath.md R75, R76). -/

namespace Sys2Proof.Machine

/-- The length of the slot list of R75 at each window length. -/
theorem length_activeBuckets_min (n : Nat) (w0 w1 w2 w3 c : Byte) :
    (activeBuckets (min n 4) w0 w1 w2 w3 c).length =
      if n < 2 then 0 else if n = 2 then 1 else if n = 3 then 3 else 8 := by
  rw [activeBuckets_eq_ingestSteps]
  obtain hshort | rfl | rfl | hfull : n < 2 ∨ n = 2 ∨ n = 3 ∨ 4 ≤ n := by omega
  · have hlen : min n 4 = n := by omega
    simp [ingestSteps, hlen, hshort, show ¬ 2 ≤ n by omega, show ¬ 3 ≤ n by omega, show ¬ 4 ≤ n by omega]
  · rfl
  · rfl
  · have hlen : min n 4 = 4 := by omega
    simp [ingestSteps, hlen, show ¬ n < 2 by omega, show n ≠ 2 by omega, show n ≠ 3 by omega]

/-- One more byte adds the increments of its position in the stream. -/
theorem tripletCount_succ (n : Nat) :
    tripletCount (n + 1) = tripletCount n + if n < 2 then 0 else if n = 2 then 1 else if n = 3 then 3 else 8 := by
  unfold tripletCount
  split_ifs <;> omega

theorem tripletCount_mono {m n : Nat} (h : m ≤ n) : tripletCount m ≤ tripletCount n :=
  monotone_nat_of_le_succ (fun n => by rw [tripletCount_succ]; exact Nat.le_add_right _ _) h

/-- The largest count a legal W admits (R14, R76). -/
theorem tripletCount_max {W : Nat} (hW : 3 ≤ W) :
    tripletCount (2 ^ W - 1) = 8 * (2 ^ W - 1) - 28 ∧ 8 * (2 ^ W - 1) - 28 < 2 ^ (W + 3) := by
  have hpow : 2 ^ 3 ≤ 2 ^ W := Nat.pow_le_pow_right (by decide) hW
  have hwidth : 2 ^ (W + 3) = 8 * 2 ^ W := by ring
  constructor
  · simp [tripletCount, show ¬ 2 ^ W - 1 < 3 by omega, show ¬ 2 ^ W - 1 = 3 by omega, show ¬ 2 ^ W - 1 = 4 by omega]
  · omega

/-- Settles O16: by induction on the bytes with `tripletCount_succ`; the maximum is at `n = 2^W - 1`. -/
theorem tripletCountCountsIncrements : Obligations.TripletCountCountsIncrements := by
  refine ⟨fun n => ?_, fun n w0 w1 w2 w3 c => ?_, fun n hn => if_pos hn, rfl, rfl, fun n hn => ?_,
    fun c n hn => tripletCount_mono (by omega), fun c => ?_⟩
  · induction n with
    | zero => rfl
    | succ n ih => simp only [tripletCount_succ, ih, List.range_succ, List.map_append, List.sum_append,
        List.map_cons, List.map_nil, List.sum_singleton]
  · rw [tripletCount_succ, length_activeBuckets_min]
  · simp [tripletCount, show ¬ n < 3 by omega, show n ≠ 3 by omega, show n ≠ 4 by omega]
  · obtain ⟨hmax, hwidth⟩ := tripletCount_max c.legal.1
    exact ⟨hmax, hmax ▸ hwidth⟩

/-- Settles O14: a counter is one summand of the sum, the sum is `triplet_count(NUM_CHAR)` by the
invariant, and NUM_CHAR is at most 2^W - 1. -/
theorem histogramCannotOverflow : Obligations.HistogramCannotOverflow := by
  intro s hinv
  obtain ⟨hmax, hwidth⟩ := tripletCount_max s.cfg.legal.1
  have hnum : s.block.numChar.toNat ≤ 2 ^ s.cfg.W - 1 := by
    have hlt := s.block.numChar.isLt
    omega
  exact ⟨fun i => List.le_sum_of_mem (List.mem_map_of_mem (by simp)), hinv.histogramSum,
    hmax ▸ tripletCount_mono hnum, hwidth⟩

/-! The threshold (40_datapath.md R77, R78). -/

theorem overThreshold_iff (count n : Nat) :
    overThreshold count (tripletCount n) = true ↔ (tripletCount n : ℝ) / 256 < count := by
  rw [overThreshold, decide_eq_true_iff, div_lt_iff₀' (by norm_num)]
  norm_cast

/-- Settles O17: the comparison multiplied out by 256, and `digestBit_digitize`. -/
theorem thresholdIsStrictRealComparison : Obligations.ThresholdIsStrictRealComparison := by
  refine ⟨overThreshold_iff, fun w hist n i => ?_⟩
  rw [digestBit_digitize hist n i.val i.isLt]
  exact overThreshold_iff _ n

/-- From three bytes on the count is 1, or a multiple of 4 that is no multiple of 8. -/
theorem dvd_tripletCount_iff (n : Nat) : 256 ∣ tripletCount n ↔ n < 3 := by
  unfold tripletCount
  split_ifs <;> omega

/-- Settles O18: `dvd_tripletCount_iff`, and the empty histogram of fewer than three bytes. -/
theorem thresholdNeverTies : Obligations.ThresholdNeverTies := by
  refine ⟨dvd_tripletCount_iff, fun n count hn htie => ?_, fun s hinv hn => ?_⟩
  · exact absurd ((dvd_tripletCount_iff n).mp ⟨count, htie.symm⟩) (by omega)
  · rw [hinv.hist_eq_zero hn]
    exact ⟨fun i => Vector.getElem_replicate _, digitize_replicate_zero _ _⟩

/-! The trigram hash (40_datapath.md R74). -/

/-- Settles O15: reduction modulo 256 passes through the XOR and the sum, so the product may be reduced
before or after them. -/
theorem hashIsSourceFormula : Obligations.HashIsSourceFormula := by
  refine ⟨fun a b c n => ?_, by decide⟩
  have hindex : a + BitVec.ofNat 8 n.val = BitVec.ofNat 8 ((a.toNat + n.val) % 256) :=
    BitVec.eq_of_toNat_eq (by simp)
  have hproduct : (tran b * (2 * BitVec.ofNat 8 n.val + 1)).toNat = (tran b).toNat * (2 * n.val + 1) % 256 := by
    simp [BitVec.toNat_mul, BitVec.toNat_add, Nat.mul_mod, Nat.add_mod]
  have hxor (x y : Nat) (hx : x < 256) : x ^^^ y % 256 = (x ^^^ y) % 256 := by
    have := Nat.xor_mod_two_pow (a := x) (b := y) (n := 8)
    rw [this, Nat.mod_eq_of_lt hx]
  simp only [tran3, BitVec.toNat_add, BitVec.toNat_xor, hindex, hproduct, hxor _ _ (tran _).isLt, Nat.mod_add_mod]

end Sys2Proof.Machine

/-! The invariant of reachable states (10_state.md R30). -/

namespace Sys2Proof.Machine

theorem Block.inv_reset (W : Nat) : (Block.reset W).Inv where
  windowLength := by simp [Block.reset]
  histogramSum := by
    simp only [Block.reset, Vector.toList_replicate, List.map_replicate, List.sum_replicate]
    simp [tripletCount]
  digestCached := nofun
  windowZero := ⟨fun _ => rfl, fun _ => rfl, fun _ => rfl, fun _ => rfl⟩
  emptyDigest := fun _ => rfl
  errorCode := by simp [Block.reset]
  scoreRange := by simp [Block.reset]

/-- Settles O12: every clause is read off the reset values. -/
theorem resetMeetsInvariant : Obligations.ResetMeetsInvariant :=
  ⟨Block.inv_reset _, Block.inv_reset⟩

section
variable {W : Nat} {b : Block W}

/-! The operations keep the invariant; each names only the clauses about the fields it writes. -/

theorem Block.Inv.recordError (hinv : b.Inv) (e : ErrorCode) : (b.recordError e).Inv :=
  { hinv with
    errorCode := by
      obtain ⟨hle, hzero⟩ := hinv.errorCode
      have hcode : e.code.toNat ≤ 3 ∧ e.code ≠ 0 := by cases e <;> decide
      cases herr : b.err <;> simp_all }

theorem Block.Inv.clearError (hinv : b.Inv) : b.clearError.Inv :=
  { hinv with errorCode := ⟨Nat.zero_le _, iff_of_true rfl rfl⟩ }

/-- ACC_CLEAR leaves the accumulator as reset does (R85). -/
theorem Block.Inv.clearAccumulator (hinv : b.Inv) : b.clearAccumulator.Inv :=
  { Block.inv_reset W with errorCode := hinv.errorCode, scoreRange := hinv.scoreRange }

theorem Block.Inv.finalize (hinv : b.Inv) : b.finalize.Inv := by
  cases hfin : b.fin with
  | true => rwa [Block.finalize_of_fin b hfin]
  | false =>
    rw [Block.finalize_of_not_fin b hfin]
    refine { hinv with digestCached := fun _ => rfl, emptyDigest := fun hnum => ?_ }
    have hempty : b.numChar = 0 := hnum
    have hzero := hinv.finalize_of_lt_three (by simp [hempty])
    rw [Block.finalize_of_not_fin b hfin] at hzero
    exact congrArg Block.digest hzero

theorem Block.Inv.loadA (hinv : b.Inv) (k : DigestIdx) (v : Byte) : (b.loadA k v).Inv := { hinv with }

theorem Block.Inv.loadB (hinv : b.Inv) (k : DigestIdx) (v : Byte) : (b.loadB k v).Inv := { hinv with }

theorem Block.Inv.copyA (hinv : b.Inv) : b.copyA.Inv := { hinv.finalize with }

theorem Block.Inv.copyB (hinv : b.Inv) : b.copyB.Inv := { hinv.finalize with }

/-- SCORE holds the result exactly, because the result of a legal threshold is in range (R84). -/
theorem Block.Inv.compare (hinv : b.Inv) {t : Option Int} (ht : ∀ x ∈ t, thresholdLegal x = true) :
    (b.compare t).Inv :=
  { hinv with
    scoreRange := by
      obtain ⟨hlow, hhigh⟩ := compareResult_range b t ht
      rw [Block.compare_score, scoreBits_toInt _ hlow hhigh]
      exact ⟨hlow, hhigh⟩ }

/-! One byte in. -/

theorem histogram_sum_eq {w : Nat} (hist : Vector (BitVec w) 256) :
    (hist.toList.map BitVec.toNat).sum = ∑ i : Fin 256, hist[i].toNat := by
  rw [← List.sum_ofFn]
  congr 1
  apply List.ext_getElem
  · rw [List.length_map, Vector.length_toList, List.length_ofFn]
  · intro k hk _
    rw [List.getElem_map, List.getElem_ofFn]
    rfl

/-- Every bucket selected is one of the 256. -/
theorem sum_count_buckets (is : List Byte) : ∑ i : Fin 256, is.count (BitVec.ofNat 8 i.val) = is.length := by
  induction is with
  | nil => simp
  | cons c is ih =>
    have hindex (i : Fin 256) : c = BitVec.ofNat 8 i.val ↔ c.toFin = i := by
      constructor
      · rintro rfl; simp
      · rintro rfl; simp
    simp only [List.count_cons, beq_iff_eq, hindex, Finset.sum_add_distrib, ih, Finset.sum_ite_eq, Finset.mem_univ,
      if_true, List.length_cons]

/-- Below the count limit the counters' sum grows by the number of increments: none of them wraps. -/
theorem Block.Inv.ingest_histogramSum (hinv : b.Inv) (c : Byte) (hn : b.numChar.toNat + 1 < 2 ^ W) :
    ((b.ingest c).hist.toList.map BitVec.toNat).sum = tripletCount (b.numChar.toNat + 1) := by
  have hlength : (b.bucketsFor c).length =
      if b.numChar.toNat < 2 then 0 else if b.numChar.toNat = 2 then 1 else if b.numChar.toNat = 3 then 3 else 8 := by
    rw [Block.bucketsFor, hinv.windowLength, length_activeBuckets_min]
  calc ((b.ingest c).hist.toList.map BitVec.toNat).sum
      = ∑ i : Fin 256, (b.hist[i].toNat + (b.bucketsFor c).count (BitVec.ofNat 8 i.val)) := by
        rw [histogram_sum_eq]
        exact Finset.sum_congr rfl fun i _ => hinv.ingest_hist_toNat c hn i
    _ = (b.hist.toList.map BitVec.toNat).sum + (b.bucketsFor c).length := by
        rw [Finset.sum_add_distrib, ← histogram_sum_eq, sum_count_buckets]
    _ = tripletCount (b.numChar.toNat + 1) := by
        rw [hinv.histogramSum, hlength, tripletCount_succ]

theorem Block.Inv.ingest (hinv : b.Inv) (c : Byte) (hn : b.numChar.toNat + 1 < 2 ^ W) : (b.ingest c).Inv := by
  have hnum := Block.ingest_numChar_toNat c hn
  have hlen := hinv.windowLength
  obtain ⟨h0, h1, h2, -⟩ := hinv.windowZero
  exact
  { hinv with
    windowLength := by rw [hnum, Block.ingest_wlen, growWindow_toNat]; omega
    histogramSum := by rw [hnum, hinv.ingest_histogramSum c hn]
    digestCached := nofun
    windowZero := by
      rw [Block.ingest_wlen, growWindow_toNat]
      exact ⟨fun h => absurd h (by omega), fun h => h0 (by omega), fun h => h1 (by omega), fun h => h2 (by omega)⟩
    emptyDigest := fun hzero => absurd (hnum.symm.trans (congrArg BitVec.toNat hzero)) (by simp) }

end

/-- Below the limit of R89 one more byte still fits NUM_CHAR. -/
theorem numChar_succ_lt_of_ne {W : Nat} (n : BitVec W) (hroom : n.toNat ≠ 2 ^ W - 1) : n.toNat + 1 < 2 ^ W := by
  have hlt := n.isLt
  omega

theorem exec_keeps_inv (i : Instr) (s : State) (hinv : s.Inv) :
    ∃ (b : Block s.cfg.W) (r : Response), exec i s = .next (s.put b r) ∧ b.Inv := by
  cases i with
  | accIngest c =>
    by_cases hfull : s.block.numChar.toNat = 2 ^ s.cfg.W - 1
    · exact ⟨_, _, exec_accIngest_of_full s c hfull, hinv.recordError .countOverflow⟩
    · exact ⟨_, _, exec_accIngest_of_not_full s c hfull, hinv.ingest c (numChar_succ_lt_of_ne _ hfull)⟩
  | cmpRunThr thr =>
    by_cases hlegal : -128 ≤ thr.toInt ∧ thr.toInt ≤ 128
    · have hlegal' := (thresholdLegal_iff thr).mpr hlegal
      exact ⟨_, _, exec_cmpRunThr_of_legal s thr hlegal', hinv.compare (by simpa using hlegal')⟩
    · exact ⟨_, _, exec_cmpRunThr_of_illegal s thr hlegal, hinv.recordError .invalidThreshold⟩
  | accClear => exact ⟨_, _, rfl, hinv.clearAccumulator⟩
  | accFinalize | accRddig k => exact ⟨_, _, rfl, hinv.finalize⟩
  | cmpLda k v => exact ⟨_, _, rfl, hinv.loadA k v⟩
  | cmpLdb k v => exact ⟨_, _, rfl, hinv.loadB k v⟩
  | cmpCpya => exact ⟨_, _, rfl, hinv.copyA⟩
  | cmpCpyb => exact ⟨_, _, rfl, hinv.copyB⟩
  | cmpRun => exact ⟨_, _, rfl, hinv.compare nofun⟩
  | stClear => exact ⟨_, _, rfl, hinv.clearError⟩
  | reservedF rest => exact ⟨_, _, rfl, hinv.recordError .illegalCommand⟩
  | nop | accRdcnt | rdStatus | cmpRdop sel k | rdScore => exact ⟨_, _, rfl, hinv⟩

/-- Settles O13: a step waits, resets (`Block.inv_reset`), runs a command (`exec_keeps_inv`) or rejects
a word, which writes the error record only (`Block.Inv.recordError`). -/
theorem everyStepKeepsInvariant : Obligations.EveryStepKeepsInvariant := by
  intro s t hinv hstep
  cases hin : s.input with
  | nil =>
    rw [step_of_nil s hin] at hstep
    cases hstep
    exact hinv
  | cons act rest =>
    cases act with
    | reset =>
      rw [step_of_reset s rest hin] at hstep
      cases hstep
      exact Block.inv_reset _
    | command w =>
      obtain ⟨i, hd⟩ | hill := decodes_or_illegalWord w
      · obtain ⟨b, r, hexec, hb⟩ := exec_keeps_inv i { s with input := rest } hinv
        rw [step_of_decode_ok s w rest i hin hd, hexec] at hstep
        cases hstep
        exact hb
      · rw [hill s rest hin] at hstep
        cases hstep
        exact hinv.recordError .illegalCommand

end Sys2Proof.Machine

/-! The distance bit by bit (40_datapath.md R81), and a digest as a number (20_memory.md R46). -/

namespace Sys2Proof.Machine

/-- Filtering the first `8 * m` indices, counted in groups of eight. -/
theorem length_filter_range_eight_mul (p : Nat → Bool) (m : Nat) :
    ((List.range (8 * m)).filter p).length =
      ∑ k ∈ Finset.range m, ((List.range 8).filter fun j => p (8 * k + j)).length := by
  induction m with
  | zero => rfl
  | succ m ih =>
    rw [Nat.mul_succ, List.range_add, List.filter_append, List.length_append, ih, Finset.sum_range_succ,
      List.filter_map, List.length_map]
    rfl

/-- The digest bits of byte `31 - k` are those of buckets `8k` to `8k + 7` (R45). -/
theorem popc_xor_eq_count_bits (a b : Digest) (k : Fin 32) :
    (popc (a[k.rev] ^^^ b[k.rev])).toNat =
      ((List.range 8).filter fun j => digestBit a (8 * k.val + j) != digestBit b (8 * k.val + j)).length := by
  rw [popc_toNat]
  congr 1
  apply List.filter_congr
  intro j hj
  have hj8 : j < 8 := List.mem_range.mp hj
  have hbyte : 31 - (8 * k.val + j) / 8 = k.rev.val := by
    rw [Fin.val_rev]
    omega
  have hbit : (8 * k.val + j) % 8 = j := by omega
  simp [digestBit_eq_getElem, hbyte, hbit]

theorem distance_comm (a b : Digest) : distance a b = distance b a := by
  simp only [distance_eq_sum, BitVec.xor_comm]

/-- Settles O24: the sum over the byte positions, read backwards, counts the differing bits eight by eight. -/
theorem distanceCountsDifferingBits : Obligations.DistanceCountsDifferingBits := by
  refine fun a b => ⟨?_, distance_le a b, distance_comm a b⟩
  calc distance a b = ∑ k : Fin 32, (popc (a[k.rev] ^^^ b[k.rev])).toNat := by
        rw [distance_eq_sum]
        exact (Equiv.sum_comp Fin.revPerm _).symm
    _ = ∑ k ∈ Finset.range 32,
          ((List.range 8).filter fun j => digestBit a (8 * k + j) != digestBit b (8 * k + j)).length := by
        rw [Finset.sum_range]
        exact Finset.sum_congr rfl fun k _ => popc_xor_eq_count_bits a b k
    _ = ((List.range (8 * 32)).filter fun i => digestBit a i != digestBit b i).length := by
        rw [length_filter_range_eight_mul]

/-- The number that a list of bytes is, the first byte most significant. -/
def bytesNumber : List Byte → Nat
  | [] => 0
  | x :: xs => 2 ^ (8 * xs.length) * x.toNat + bytesNumber xs

theorem bytesNumber_lt (xs : List Byte) : bytesNumber xs < 2 ^ (8 * xs.length) := by
  induction xs with
  | nil => exact Nat.one_pos
  | cons x xs ih =>
    have hx : x.toNat + 1 ≤ 2 ^ 8 := x.isLt
    calc bytesNumber (x :: xs) < 2 ^ (8 * xs.length) * (x.toNat + 1) := by rw [bytesNumber, Nat.mul_succ]; omega
      _ ≤ 2 ^ (8 * xs.length) * 2 ^ 8 := Nat.mul_le_mul_left _ hx
      _ = 2 ^ (8 * (x :: xs).length) := by rw [← Nat.pow_add, List.length_cons, Nat.mul_succ]

theorem testBit_bytesNumber (xs : List Byte) (i : Nat) (hi : i < 8 * xs.length) :
    (bytesNumber xs).testBit i = (xs.getD (xs.length - 1 - i / 8) 0).getLsbD (i % 8) := by
  induction xs with
  | nil => exact absurd hi (by simp)
  | cons x xs ih =>
    rw [List.length_cons] at hi
    rw [bytesNumber, Nat.testBit_two_pow_mul_add _ (bytesNumber_lt xs)]
    split_ifs with hlow
    · have hindex : (x :: xs).length - 1 - i / 8 = (xs.length - 1 - i / 8) + 1 := by
        rw [List.length_cons]
        omega
      rw [ih hlow, hindex, List.getD_cons_succ]
    · have hindex : (x :: xs).length - 1 - i / 8 = 0 := by
        rw [List.length_cons]
        omega
      have hbit : i - 8 * xs.length = i % 8 := by omega
      rw [hindex, List.getD_cons_zero, hbit]
      rfl

/-- The positional sum of `digestNumber` over the bytes from position `k` on. -/
theorem sum_zipIdx_eq_bytesNumber (xs : List Byte) (k m : Nat) (hm : k + xs.length = m + 1) :
    ((xs.zipIdx k).map fun p => p.1.toNat * 256 ^ (m - p.2)).sum = bytesNumber xs := by
  induction xs generalizing k with
  | nil => rfl
  | cons x xs ih =>
    rw [List.length_cons] at hm
    have hexp : m - k = xs.length := by omega
    rw [List.zipIdx_cons, List.map_cons, List.sum_cons, ih (k + 1) (by omega), bytesNumber, hexp, Nat.pow_mul,
      Nat.mul_comm]

theorem testBit_digestNumber (d : Digest) (i : Nat) (hi : i < 256) : (digestNumber d).testBit i = digestBit d i := by
  have hlen : d.toList.length = 32 := Vector.length_toList
  rw [digestNumber, sum_zipIdx_eq_bytesNumber d.toList 0 31 (by rw [hlen]), testBit_bytesNumber _ i (by rwa [hlen]),
    hlen, digestBit]

/-- Settles O20: the number's bit is the digest's, and the digitizer put it there. -/
theorem digestAsNumber : Obligations.DigestAsNumber := by
  intro w hist n i
  rw [testBit_digestNumber _ i.val i.isLt, digestBit_digitize hist n i.val i.isLt]
  rfl

/-! The early exit (40_datapath.md R83, R84). -/

/-- The early exit is taken when the distance exceeds 128 - T (R83). -/
theorem early_some (d : Nat) (t : Int) :
    early d (some t) = if (d : Int) > 128 - t then (t - 1, true) else (128 - (d : Int), false) := rfl

/-- The serial loop, entered with a count that has not passed the limit, decides by the whole count: the
running count only grows, so it passes the limit somewhere exactly when it ends past it. -/
theorem serialCompare_eq (t : Int) (pairs : List (Byte × Byte)) (running : Nat) (hrun : (running : Int) ≤ 128 - t) :
    serialCompare t pairs running =
      early (running + (pairs.map fun p => (popc (p.1 ^^^ p.2)).toNat).sum) (some t) := by
  induction pairs generalizing running with
  | nil => simp [serialCompare, early_some, not_lt.mpr hrun]
  | cons p pairs ih =>
    obtain ⟨x, y⟩ := p
    simp only [serialCompare, List.map_cons, List.sum_cons, ← Nat.add_assoc]
    split_ifs with hexit
    · exact (if_pos (by omega)).symm
    · exact ih _ (by omega)

theorem distance_eq_sum_bytePairs (a b : Digest) :
    distance a b = ((bytePairs a b).map fun p => (popc (p.1 ^^^ p.2)).toNat).sum := by
  rw [distance, bytePairs, List.map_zip_eq_zipWith]
  rfl

/-- Settles O26: `serialCompare_eq` from a count of 0; the sum does not depend on the order. -/
theorem serialExitEqualsTotalForm : Obligations.SerialExitEqualsTotalForm := by
  intro a b t order _ hhigh hperm
  refine ⟨?_, early_some _ t⟩
  rw [serialCompare_eq t order 0 (by omega), Nat.zero_add, (hperm.map _).sum_eq, distance_eq_sum_bytePairs]

/-- Settles O27: both ends of `early_some`, with a distance of at most 256 that is 0 only between equal
digests. -/
theorem earlyExitRange : Obligations.EarlyExitRange := by
  intro a b t hlow hhigh
  have hle := distance_le a b
  have hne : a ≠ b ↔ 0 < distance a b := by rw [Nat.pos_iff_ne_zero, Ne, Ne, distance_eq_zero_iff]
  rw [early_some, exactScore, hne]
  split_ifs with hexit
  · simp
    omega
  · simp
    omega

end Sys2Proof.Machine

/-! Which state a command writes (10_state.md section 1), and what finalizing and comparing depend on. -/

namespace Sys2Proof.Machine

/-- Settles O30: the increments are those of steps 2 to 4 of R86, each modulo the counter's width. -/
theorem ingestCounterHasItsWidth : Obligations.IngestCounterHasItsWidth := by
  intro s c hroom
  refine ⟨s.block.ingest c, exec_accIngest_of_not_full s c hroom, fun i => ?_⟩
  rw [← activeBuckets_eq_ingestSteps]
  exact bumpBuckets_toNat _ _ i

section
variable {W : Nat}

/-- The block after a finalizing command (R80): finalized, and for a copy with one operand written. -/
def Block.finalizedBy (i : Instr) (b : Block W) : Block W :=
  match i with
  | .cmpCpya => b.copyA
  | .cmpCpyb => b.copyB
  | _ => b.finalize

/-- RDATA of a finalizing command: a digest byte for ACC_RDDIG (R94), else 0. -/
def Block.finalizingRdata (i : Instr) (b : Block W) : Word :=
  match i with
  | .accRddig k => zext32 (readByte b.finalize.digest k)
  | _ => 0

@[simp] theorem Block.finalizedBy_fin (i : Instr) (b : Block W) : (b.finalizedBy i).fin = true := by
  unfold Block.finalizedBy; split <;> simp

@[simp] theorem Block.finalize_finalizedBy (i : Instr) (b : Block W) :
    (b.finalizedBy i).finalize = b.finalizedBy i :=
  Block.finalize_of_fin _ (Block.finalizedBy_fin i b)

@[simp] theorem Block.finalizedBy_digest (i : Instr) (b : Block W) :
    (b.finalizedBy i).digest = b.finalize.digest := by
  unfold Block.finalizedBy; split <;> simp

/-- A copy of a finalized digest to an operand that holds it writes nothing new. -/
theorem Block.finalizedBy_finalizedBy (i : Instr) (b : Block W) :
    (b.finalizedBy i).finalizedBy i = b.finalizedBy i := by
  have hkeep := Block.finalize_finalizedBy i b
  cases i with
  | cmpCpya =>
    calc (b.finalizedBy .cmpCpya).copyA
        = { b.finalizedBy .cmpCpya with cmpA := (b.finalizedBy .cmpCpya).digest } := by rw [Block.copyA, hkeep]
      _ = b.finalizedBy .cmpCpya := by rw [Block.finalizedBy_digest]; rfl
  | cmpCpyb =>
    calc (b.finalizedBy .cmpCpyb).copyB
        = { b.finalizedBy .cmpCpyb with cmpB := (b.finalizedBy .cmpCpyb).digest } := by rw [Block.copyB, hkeep]
      _ = b.finalizedBy .cmpCpyb := by rw [Block.finalizedBy_digest]; rfl
  | _ => exact hkeep

theorem Block.finalizingRdata_finalizedBy (i : Instr) (b : Block W) :
    (b.finalizedBy i).finalizingRdata i = b.finalizingRdata i := by
  unfold Block.finalizingRdata; split <;> simp

end

theorem exec_of_finalizes {i : Instr} (hi : i.finalizes = true) (s : State) :
    exec i s = .next (completed s (s.block.finalizedBy i) (s.block.finalizingRdata i)) := by
  cases i with
  | accFinalize | accRddig k | cmpCpya | cmpCpyb => rfl
  | _ => cases hi

/-- Settles O35: a finalizing command leaves a block that it leaves as it is, and answers it alike. -/
theorem finalizingReadsIdempotent : Obligations.FinalizingReadsIdempotent := by
  refine ⟨fun i s hi => ?_, fun i s hi => ?_⟩
  · refine ⟨_, _, Block.finalizedBy_fin i s.block, exec_of_finalizes hi s, (exec_of_finalizes hi _).trans ?_⟩
    simp only [completed, Block.finalizedBy_finalizedBy, Block.finalizingRdata_finalizedBy]
  · cases i with
    | accRdcnt | cmpRdop sel k | rdScore | rdStatus => exact ⟨_, rfl⟩
    | _ => cases hi

/-- Settles O44: the distance does not depend on the operands' order (`distance_comm`). -/
theorem runIsSymmetric : Obligations.RunIsSymmetric := by
  intro s i hrun
  obtain ⟨t, hexec⟩ := exec_run_of_legal hrun
  have hresult : early (distance s.block.cmpB s.block.cmpA) t = s.block.compareResult t := by
    rw [distance_comm, Block.compareResult]
  refine ⟨_, _, _, hexec s, (hexec _).trans ?_⟩
  simp only [Block.compare, Block.compareResult, hresult]

/-- Settles O53: the fields each operation writes, by the laws of the state; a rejection writes the error
record only. -/
theorem stateWrittenOnlyByItsCommands : Obligations.StateWrittenOnlyByItsCommands := by
  intro i s
  cases i with
  | accIngest c =>
    by_cases hfull : s.block.numChar.toNat = 2 ^ s.cfg.W - 1
    · exact ⟨_, _, exec_accIngest_of_full s c hfull, by simp⟩
    · exact ⟨_, _, exec_accIngest_of_not_full s c hfull, by simp⟩
  | cmpRunThr thr =>
    by_cases hlegal : -128 ≤ thr.toInt ∧ thr.toInt ≤ 128
    · exact ⟨_, _, exec_cmpRunThr_of_legal s thr ((thresholdLegal_iff thr).mpr hlegal), by simp⟩
    · exact ⟨_, _, exec_cmpRunThr_of_illegal s thr hlegal, by simp⟩
  | accFinalize | accRddig k | cmpCpya | cmpCpyb =>
    exact ⟨_, _, rfl, by simp [Instr.finalizes]⟩
  | reservedF rest => exact ⟨_, _, exec_reservedF rest s, by simp⟩
  | _ => exact ⟨_, _, rfl, by simp⟩

end Sys2Proof.Machine

/-! Command sequences, seen from the block (20_memory.md R57). -/

namespace Sys2Proof.Machine

/-- The commands take the block from `b` to `b'`, whatever the host's acts to come and the responses so
far; they only add responses. -/
def RunsTo {cfg : Config} (is : List Instr) (b b' : Block cfg.W) : Prop :=
  ∀ (input : List HostAct) (rs : List Response), ∃ rs' : List Response,
    execAll is ⟨cfg, b, input, rs⟩ = .next ⟨cfg, b', input, rs ++ rs'⟩

section
variable {cfg : Config} {b b' b'' : Block cfg.W}

theorem RunsTo.nil : RunsTo [] b b := fun _ rs => ⟨[], by rw [List.append_nil]; rfl⟩

theorem RunsTo.append {is js : List Instr} (h : RunsTo is b b') (h' : RunsTo js b' b'') :
    RunsTo (is ++ js) b b'' := by
  intro input rs
  obtain ⟨rs', hrun⟩ := h input rs
  obtain ⟨rs'', hrun'⟩ := h' input (rs ++ rs')
  exact ⟨rs' ++ rs'', by rw [execAll_append is js _ _ hrun, hrun', List.append_assoc]⟩

/-- A single command, by what it does to every state that holds the block. -/
theorem RunsTo.single {i : Instr}
    (h : ∀ input rs, ∃ r, exec i ⟨cfg, b, input, rs⟩ = .next (State.put ⟨cfg, b, input, rs⟩ b' r)) :
    RunsTo [i] b b' := by
  intro input rs
  obtain ⟨r, hexec⟩ := h input rs
  exact ⟨[r], by rw [execAll, hexec]; rfl⟩

theorem RunsTo.cons {i : Instr} {is : List Instr} (h : RunsTo [i] b b') (h' : RunsTo is b' b'') :
    RunsTo (i :: is) b b'' := h.append h'

theorem runsTo_accClear : RunsTo [.accClear] b b.clearAccumulator := .single fun _ _ => ⟨_, rfl⟩

theorem runsTo_of_finalizes {i : Instr} (hi : i.finalizes = true) : RunsTo [i] b (b.finalizedBy i) :=
  .single fun _ _ => ⟨_, exec_of_finalizes hi _⟩

end

/-! Streams of bytes (41_accumulator.md R86, R89). -/

/-- The block after ACC_INGEST: one byte in, or at the count limit the recorded error. -/
def Block.absorb {W : Nat} (b : Block W) (c : Byte) : Block W :=
  if b.countFull then b.recordError .countOverflow else b.ingest c

theorem runsTo_accIngest {cfg : Config} {b : Block cfg.W} (c : Byte) : RunsTo [.accIngest c] b (b.absorb c) :=
  .single fun input rs => by
    simp only [exec, execAccIngest, Block.absorb]
    split
    · exact ⟨_, rfl⟩
    · exact ⟨_, rfl⟩

theorem runsTo_ingestBytes {cfg : Config} {b : Block cfg.W} (cs : List Byte) :
    RunsTo (ingestBytes cs) b (cs.foldl Block.absorb b) := by
  induction cs generalizing b with
  | nil => exact .nil
  | cons c cs ih => exact .cons (runsTo_accIngest c) ih

/-! Two blocks whose accumulators answer alike. -/

section
variable {W : Nat} {b b' : Block W}

/-- The accumulators agree but for FIN and a stale DIGEST: they finalize to the same digest. -/
structure Block.Alike (b b' : Block W) : Prop where
  w0 : b.w0 = b'.w0
  w1 : b.w1 = b'.w1
  w2 : b.w2 = b'.w2
  w3 : b.w3 = b'.w3
  wlen : b.wlen = b'.wlen
  numChar : b.numChar = b'.numChar
  hist : b.hist = b'.hist
  digest : b.finalize.digest = b'.finalize.digest

theorem Block.recordError_finalize_digest (b : Block W) (e : ErrorCode) :
    (b.recordError e).finalize.digest = b.finalize.digest := by
  rw [Block.finalize_digest, Block.finalize_digest]
  rfl

theorem Block.alike_finalizedBy (i : Instr) (b : Block W) : b.Alike (b.finalizedBy i) := by
  unfold Block.finalizedBy
  split
  · constructor <;> simp [Block.finalize_digest]
  · constructor <;> simp [Block.finalize_digest]
  · constructor <;> simp

theorem Block.alike_clearAccumulator_reset (b : Block W) : b.clearAccumulator.Alike (.reset W) :=
  ⟨rfl, rfl, rfl, rfl, rfl, rfl, rfl, (Block.finalize_digest _).trans (Block.finalize_digest _).symm⟩

/-- A byte clears FIN, so what was finalized before it has no effect on what comes (R91). -/
theorem Block.Alike.absorb (h : b.Alike b') (c : Byte) : (b.absorb c).Alike (b'.absorb c) := by
  have hfull : b.countFull = b'.countFull := by rw [Block.countFull, h.numChar, Block.countFull]
  have hbuckets : b.bucketsFor c = b'.bucketsFor c := by
    simp only [Block.bucketsFor, h.w0, h.w1, h.w2, h.w3, h.wlen]
  have hdigest := h.digest
  obtain ⟨h0, h1, h2, h3, hwlen, hnum, hhist, -⟩ := h
  unfold Block.absorb
  rw [← hfull]
  split
  · exact ⟨h0, h1, h2, h3, hwlen, hnum, hhist, by simpa only [Block.recordError_finalize_digest]⟩
  · constructor <;> simp [Block.finalize_digest, *]

theorem Block.Alike.foldl_absorb (h : b.Alike b') (cs : List Byte) :
    (cs.foldl Block.absorb b).Alike (cs.foldl Block.absorb b') := by
  induction cs generalizing b b' with
  | nil => exact h
  | cons c cs ih => exact ih (h.absorb c)

end

/-- Settles O36: the command in the middle leaves an accumulator that is alike, and it stays alike. -/
theorem midStreamReadIsSafe : Obligations.MidStreamReadIsSafe := by
  intro s i bs hi
  have hrest {b : Block s.cfg.W} : RunsTo (ingestBytes bs ++ [.accFinalize]) b (bs.foldl Block.absorb b).finalize :=
    (runsTo_ingestBytes bs).append (runsTo_of_finalizes rfl)
  obtain ⟨rs, hrun⟩ := hrest s.input s.responses
  obtain ⟨rs', hrun'⟩ := (runsTo_of_finalizes hi).cons hrest s.input s.responses
  exact ⟨_, _, hrun, hrun', ((Block.alike_finalizedBy i s.block).foldl_absorb bs).digest.symm,
    Block.finalize_fin _⟩

/-! The stream alone (41_accumulator.md R92). -/

/-- The slots that are active after the bytes `before` select the source's trigrams (R75). -/
theorem activeBuckets_eq_trigramsAt (before : List Byte) (c : Byte) :
    activeBuckets (min before.length 4) (before.getD 0 0) (before.getD 1 0) (before.getD 2 0) (before.getD 3 0) c =
      trigramsAt before c := by
  match before with
  | [] | [_] | [_, _] | [_, _, _] => rfl
  | _ :: _ :: _ :: _ :: rest =>
    rw [Nat.min_eq_right (by simp)]
    rfl

section
variable {W : Nat} {b : Block W} {before : List Byte}

/-- A reachable block that has taken the bytes `before` in, the most recent first. -/
structure Block.Holds (b : Block W) (before : List Byte) : Prop where
  inv : b.Inv
  numChar : b.numChar.toNat = before.length
  w0 : b.w0 = before.getD 0 0
  w1 : b.w1 = before.getD 1 0
  w2 : b.w2 = before.getD 2 0
  w3 : b.w3 = before.getD 3 0

theorem Block.holds_reset (W : Nat) : (Block.reset W).Holds [] :=
  ⟨Block.inv_reset W, BitVec.toNat_zero, rfl, rfl, rfl, rfl⟩

theorem Block.Holds.bucketsFor_eq (h : b.Holds before) (c : Byte) : b.bucketsFor c = trigramsAt before c := by
  rw [Block.bucketsFor, h.inv.windowLength, h.numChar, h.w0, h.w1, h.w2, h.w3, activeBuckets_eq_trigramsAt]

theorem Block.Holds.ingest (h : b.Holds before) (c : Byte) (hlen : before.length + 1 < 2 ^ W) :
    (b.ingest c).Holds (c :: before) := by
  rw [← h.numChar] at hlen
  exact ⟨h.inv.ingest c hlen, by rw [Block.ingest_numChar_toNat c hlen, h.numChar, List.length_cons],
    rfl, h.w0, h.w1, h.w2⟩

theorem Block.Holds.absorb_eq (h : b.Holds before) (c : Byte) (hlen : before.length + 1 < 2 ^ W) :
    b.absorb c = b.ingest c := by
  have hroom : b.countFull = false := beq_false_of_ne (by rw [h.numChar]; omega)
  rw [Block.absorb, hroom]
  rfl

/-- The counters grow by the trigrams of the stream (R88, R92). -/
theorem Block.Holds.foldl_absorb (h : b.Holds before) (cs : List Byte) (hlen : before.length + cs.length < 2 ^ W) :
    (cs.foldl Block.absorb b).Holds (cs.reverse ++ before) ∧
    ∀ i : Fin 256, (cs.foldl Block.absorb b).hist[i].toNat =
      b.hist[i].toNat + (streamTrigrams before cs).count (BitVec.ofNat 8 i.val) := by
  induction cs generalizing b before with
  | nil => exact ⟨h, fun i => rfl⟩
  | cons c cs ih =>
    rw [List.length_cons] at hlen
    have hone : before.length + 1 < 2 ^ W := by omega
    obtain ⟨hholds, hhist⟩ := ih (h.ingest c hone) (by rw [List.length_cons]; omega)
    rw [List.foldl_cons, h.absorb_eq c hone, List.reverse_cons, List.append_assoc]
    refine ⟨hholds, fun i => ?_⟩
    rw [hhist i, h.inv.ingest_hist_toNat c (by rwa [h.numChar]) i, h.bucketsFor_eq, streamTrigrams,
      List.count_append, Nat.add_assoc]

/-- A reachable block finalizes to the digest of its histogram, now or when FIN was set. -/
theorem Block.Inv.finalize_digest (hinv : b.Inv) : b.finalize.digest = digitize b.hist b.numChar.toNat := by
  rw [Block.finalize_digest]
  split
  · next hfin => exact hinv.digestCached hfin
  · rfl

/-- From reset, the block's digest is the stream's (R92). -/
theorem digest_of_stream (cs : List Byte) (hlen : cs.length < 2 ^ W) :
    (cs.foldl Block.absorb (.reset W)).numChar.toNat = cs.length ∧
    ∀ j : Fin 256, digestBit (cs.foldl Block.absorb (.reset W)).finalize.digest j.val = streamDigestBit cs j.val := by
  obtain ⟨hholds, hhist⟩ := (Block.holds_reset W).foldl_absorb cs (by rwa [List.length_nil, Nat.zero_add])
  have hnum : (cs.foldl Block.absorb (.reset W)).numChar.toNat = cs.length := by
    rw [hholds.numChar, List.append_nil, List.length_reverse]
  refine ⟨hnum, fun j => ?_⟩
  have hcount : (cs.foldl Block.absorb (.reset W)).hist[j.val].toNat =
      (streamTrigrams [] cs).count (BitVec.ofNat 8 j.val) := by
    simpa [Block.reset] using hhist j
  rw [hholds.inv.finalize_digest, digestBit_digitize _ _ _ j.isLt, hcount, hnum]
  rfl

end

/-- Settles O37: a cleared accumulator is alike to a reset one, so its stream's digest is that of
`digest_of_stream`; a finalizing command in the middle leaves it alike. -/
theorem digestIsTheStreamsDigest : Obligations.DigestIsTheStreamsDigest := by
  refine ⟨fun s xs ys i hlen hi => ?_, fun xs ys => ?_⟩
  · obtain ⟨rs, hrun⟩ := (runsTo_accClear.append (runsTo_ingestBytes (xs ++ ys))).append
      (runsTo_of_finalizes (i := .accFinalize) rfl) s.input s.responses
    obtain ⟨rs', hrun'⟩ := (((runsTo_accClear.append (runsTo_ingestBytes xs)).append (runsTo_of_finalizes hi)).append
      (runsTo_ingestBytes ys)).append (runsTo_of_finalizes (i := .accFinalize) rfl) s.input s.responses
    obtain ⟨hnum, hdigest⟩ := digest_of_stream (W := s.cfg.W) (xs ++ ys) (by rwa [List.length_append])
    have hreset := (Block.alike_clearAccumulator_reset s.block).foldl_absorb (xs ++ ys)
    have hmiddle := (Block.alike_finalizedBy i (xs.foldl Block.absorb s.block.clearAccumulator)).foldl_absorb ys
    rw [← List.foldl_append] at hmiddle
    refine ⟨_, _, hrun, hrun', ?_, hmiddle.digest, fun j => ?_⟩
    · rw [← List.length_append, ← hnum, ← hreset.numChar]
      exact congrArg BitVec.toNat (Block.finalize_numChar _)
    · rw [← hdigest j, ← hreset.digest]
      rfl
  · calc ingestChunks [.bytes xs, .bytes ys]
        = (ingestBytes [xs, ys].flatten, none) := ingestChunks_bytes [xs, ys]
      _ = (ingestBytes [xs ++ ys].flatten, none) := by simp
      _ = ingestChunks [.bytes (xs ++ ys)] := (ingestChunks_bytes [xs ++ ys]).symm

end Sys2Proof.Machine

/-! Digests as text and as lists of numbers (44_host_interface.md R114, R115). -/

namespace Sys2Proof.Machine

theorem hexValue_hexDigit (v : BitVec 4) : hexValue (hexDigit v) = some v := by
  revert v; decide

/-- The hex digits of R115, by their codes. -/
theorem hexValue_isSome_iff (c : Char) :
    (hexValue c).isSome = true ↔ ('0' ≤ c ∧ c ≤ '9') ∨ ('a' ≤ c ∧ c ≤ 'f') ∨ ('A' ≤ c ∧ c ≤ 'F') := by
  have hle (x y : Char) : x ≤ y ↔ x.toNat ≤ y.toNat := Iff.rfl
  simp only [hexValue, hle]
  change _ ↔ (48 ≤ c.toNat ∧ c.toNat ≤ 57) ∨ (97 ≤ c.toNat ∧ c.toNat ≤ 102) ∨ (65 ≤ c.toNat ∧ c.toNat ≤ 70)
  split_ifs <;> simp <;> omega

/-- A hex digit's value, written in lowercase, is the digit in lowercase. -/
theorem hexDigit_of_hexValue {c : Char} {v : BitVec 4} (h : hexValue c = some v) : hexDigit v = c.toLower := by
  have hascii : c.toNat < 128 := by
    simp only [hexValue] at h
    split_ifs at h <;> omega
  have hall : ∀ n < 128, ∀ v ∈ hexValue (Char.ofNat n), hexDigit v = (Char.ofNat n).toLower := by decide
  have hc := hall c.toNat hascii
  rw [Char.ofNat_toNat] at hc
  exact hc v h

theorem extractLsb'_append_nibbles (h l : BitVec 4) :
    (h ++ l).extractLsb' 4 4 = h ∧ (h ++ l).extractLsb' 0 4 = l := by
  revert h l; decide

/-- A pair of characters is parsed when both are hex digits and the rest is parsed. -/
theorem hexPairs_cons_cons_eq_some {hi lo : Char} {rest : List Char} {bs : List Byte} :
    hexPairs (hi :: lo :: rest) = some bs ↔ ∃ (h l : BitVec 4) (bs' : List Byte),
      hexValue hi = some h ∧ hexValue lo = some l ∧ hexPairs rest = some bs' ∧ (h ++ l) :: bs' = bs := by
  rw [hexPairs]
  constructor
  · intro h
    split at h
    · next h' l' bs' hhi hlo hrest => exact ⟨h', l', bs', hhi, hlo, hrest, Option.some.inj h⟩
    · cases h
  · rintro ⟨h, l, bs', hhi, hlo, hrest, rfl⟩
    rw [hhi, hlo, hrest]

/-- What the pair-by-pair parser accepts, and as which bytes. -/
theorem of_hexPairs_eq_some {cs : List Char} {bs : List Byte} (h : hexPairs cs = some bs) :
    cs.length = 2 * bs.length ∧ (∀ c ∈ cs, (hexValue c).isSome = true) ∧ bs.flatMap hexByte = cs.map Char.toLower := by
  match cs with
  | [] => cases h; exact ⟨rfl, nofun, rfl⟩
  | [_] => cases h
  | hi :: lo :: rest =>
    obtain ⟨h', l', bs', hhi, hlo, hrest, rfl⟩ := hexPairs_cons_cons_eq_some.mp h
    obtain ⟨hlen, hall, htext⟩ := of_hexPairs_eq_some hrest
    obtain ⟨hupper, hlower⟩ := extractLsb'_append_nibbles h' l'
    refine ⟨by simp only [List.length_cons, hlen]; omega, by simpa [hhi, hlo] using hall, ?_⟩
    simp [hexByte, hupper, hlower, htext, hexDigit_of_hexValue hhi, hexDigit_of_hexValue hlo]

theorem exists_hexPairs {cs : List Char} (n : Nat) (hlen : cs.length = 2 * n)
    (hall : ∀ c ∈ cs, (hexValue c).isSome = true) : ∃ bs, hexPairs cs = some bs := by
  match n, cs, hlen with
  | 0, [], _ => exact ⟨[], rfl⟩
  | n + 1, hi :: lo :: rest, hlen =>
    obtain ⟨h, hhi⟩ := Option.isSome_iff_exists.mp (hall hi (by simp))
    obtain ⟨l, hlo⟩ := Option.isSome_iff_exists.mp (hall lo (by simp))
    obtain ⟨bs, hrest⟩ := exists_hexPairs n (cs := rest) (by simp only [List.length_cons] at hlen; omega)
      fun c hc => hall c (by simp [hc])
    exact ⟨_, hexPairs_cons_cons_eq_some.mpr ⟨h, l, bs, hhi, hlo, hrest, rfl⟩⟩

/-- The text of bytes is parsed as these bytes. -/
theorem hexPairs_flatMap_hexByte (bs : List Byte) : hexPairs (bs.flatMap hexByte) = some bs := by
  induction bs with
  | nil => rfl
  | cons x xs ih =>
    have hnibbles : x.extractLsb' 4 4 ++ x.extractLsb' 0 4 = x := by
      revert x; decide
    exact hexPairs_cons_cons_eq_some.mpr ⟨_, _, xs, hexValue_hexDigit _, hexValue_hexDigit _, ih, by rw [hnibbles]⟩

theorem digestOfList_toList (d : Digest) : digestOfList d.toList = .ok d := by
  rw [digestOfList, dif_pos Vector.length_toList]
  rfl

theorem digestOfList_of_length {bs : List Byte} (hlen : bs.length = 32) :
    ∃ d, digestOfList bs = .ok d ∧ d.toList = bs := ⟨_, dif_pos hlen, rfl⟩

theorem digestOfList_of_length_ne {bs : List Byte} (hlen : bs.length ≠ 32) :
    digestOfList bs = .error .invalidDigestFormat := dif_neg hlen

theorem parseHexDigest_of_hexPairs {cs : List Char} {bs : List Byte} (h : hexPairs cs = some bs) :
    parseHexDigest cs = digestOfList bs := by
  rw [parseHexDigest, h]

theorem parseHexDigest_hexDigest (d : Digest) : parseHexDigest (hexDigest d) = .ok d := by
  rw [hexDigest, parseHexDigest_of_hexPairs (hexPairs_flatMap_hexByte _), digestOfList_toList]

/-- Settles O54: two characters per byte, read back nibble by nibble. -/
theorem hexTextRoundTrip : Obligations.HexTextRoundTrip := by
  refine fun d => ⟨?_, parseHexDigest_hexDigest d⟩
  obtain ⟨hlen, -, -⟩ := of_hexPairs_eq_some (hexPairs_flatMap_hexByte d.toList)
  rw [hexDigest, hlen, Vector.length_toList]

/-- Settles O55: the parser reads pairs of hex digits only, and needs 32 of them. -/
theorem hexParserAcceptsExactly : Obligations.HexParserAcceptsExactly := by
  intro cs
  simp only [← hexValue_isSome_iff]
  split_ifs with haccept
  · obtain ⟨hlen, hall⟩ := haccept
    obtain ⟨bs, hbs⟩ := exists_hexPairs 32 hlen hall
    obtain ⟨hpairs, -, htext⟩ := of_hexPairs_eq_some hbs
    obtain ⟨d, hd, hbytes⟩ := digestOfList_of_length (bs := bs) (by omega)
    exact ⟨d, by rw [parseHexDigest_of_hexPairs hbs, hd], by rw [hexDigest, hbytes, htext]⟩
  · cases hbs : hexPairs cs with
    | none => rw [parseHexDigest, hbs]
    | some bs =>
      obtain ⟨hpairs, hall, -⟩ := of_hexPairs_eq_some hbs
      rw [parseHexDigest_of_hexPairs hbs]
      exact digestOfList_of_length_ne fun hlen => haccept ⟨by rw [hpairs, hlen], hall⟩

/-- A byte holds each number in 0..255. -/
theorem toNat_ofInt_of_byte {n : Int} (hn : 0 ≤ n ∧ n ≤ 255) : ((BitVec.ofInt 8 n).toNat : Int) = n := by
  rw [BitVec.toNat_ofInt]
  omega

/-- The bytes of numbers in 0..255 are these numbers. -/
theorem map_toNat_map_ofInt {ns : List Int} (hall : ∀ n ∈ ns, 0 ≤ n ∧ n ≤ 255) :
    (ns.map (BitVec.ofInt 8)).map (fun x => (x.toNat : Int)) = ns := by
  rw [List.map_map]
  exact (List.map_congr_left fun n hn => toNat_ofInt_of_byte (hall n hn)).trans (List.map_id ns)

/-- Settles O56: the range test is over all entries, and the length is tested on the bytes. -/
theorem rawParserAcceptsExactly : Obligations.RawParserAcceptsExactly := by
  intro ns
  have hrange : (ns.all fun n => decide (0 ≤ n) && decide (n ≤ 255)) = true ↔ ∀ n ∈ ns, 0 ≤ n ∧ n ≤ 255 := by
    simp
  by_cases hall : ∀ n ∈ ns, 0 ≤ n ∧ n ≤ 255
  · rw [parseRawDigest, if_pos (hrange.mpr hall)]
    split_ifs with haccept
    · obtain ⟨d, hd, hbytes⟩ := digestOfList_of_length (bs := ns.map (BitVec.ofInt 8)) (by simp [haccept.1])
      exact ⟨d, hd, by rw [hbytes, map_toNat_map_ofInt hall]⟩
    · exact digestOfList_of_length_ne fun hlen => haccept ⟨by simpa using hlen, hall⟩
  · rw [if_neg fun haccept => hall haccept.2, parseRawDigest, if_neg (mt hrange.mp hall)]

theorem parseRawDigest_toList (d : Digest) : parseRawDigest (d.toList.map fun x => (x.toNat : Int)) = .ok d := by
  have hraw := rawParserAcceptsExactly (d.toList.map fun x => (x.toNat : Int))
  rw [if_pos ⟨by simp, by simp; omega⟩] at hraw
  obtain ⟨d', hd', hbytes⟩ := hraw
  have hinj : Function.Injective fun x : Byte => (x.toNat : Int) := fun x y h => by bv_omega
  rw [hd', Vector.toList_inj.mp (hinj.list_map hbytes)]

end Sys2Proof.Machine

/-! Loading whole operands (30_encoding.md R73). -/

namespace Sys2Proof.Machine

/-- CMP_LDA or CMP_LDB, by the operand it writes. -/
def loadInstr : OperandReg → DigestIdx → Byte → Instr
  | .cmpA => .cmpLda
  | .cmpB => .cmpLdb

/-- The block with the operand register SEL names replaced. -/
def Block.withOperand {W : Nat} (b : Block W) (sel : OperandReg) (d : Digest) : Block W :=
  match sel with
  | .cmpA => { b with cmpA := d }
  | .cmpB => { b with cmpB := d }

/-- Bytes written one after the other, each at the index it comes with. -/
def writeBytes (d : Digest) (writes : List (Byte × Nat)) : Digest :=
  writes.foldl (fun d p => writeByte d (BitVec.ofNat 5 p.2) p.1) d

section
variable {cfg : Config} {b : Block cfg.W}

theorem runsTo_loadInstr (sel : OperandReg) (k : DigestIdx) (v : Byte) :
    RunsTo [loadInstr sel k v] b (b.withOperand sel (writeByte (b.operand sel) k v)) := by
  cases sel with
  | cmpA => exact .single fun input rs => ⟨_, exec_cmpLda k v _⟩
  | cmpB => exact .single fun input rs => ⟨_, exec_cmpLdb k v _⟩

theorem runsTo_map_loadInstr (sel : OperandReg) (writes : List (Byte × Nat)) :
    RunsTo (writes.map fun p => loadInstr sel (BitVec.ofNat 5 p.2) p.1) b
      (b.withOperand sel (writeBytes (b.operand sel) writes)) := by
  induction writes generalizing b with
  | nil =>
    have hkeep : b.withOperand sel (b.operand sel) = b := by cases sel <;> rfl
    rw [writeBytes, List.foldl_nil, hkeep]
    exact .nil
  | cons p rest ih =>
    have hrest := ih (b := b.withOperand sel (writeByte (b.operand sel) (BitVec.ofNat 5 p.2) p.1))
    cases sel with
    | cmpA | cmpB => exact .cons (runsTo_loadInstr _ _ _) hrest

/-- Bytes written from index `k` on: the others keep their values. -/
theorem getElem_writeBytes_zipIdx (l : List Byte) (d : Digest) (k : Nat) (hk : k + l.length ≤ 32) (j : Nat)
    (hj : j < 32) :
    (writeBytes d (l.zipIdx k))[j] = if k ≤ j then l.getD (j - k) d[j] else d[j] := by
  induction l generalizing d k with
  | nil => simp [writeBytes]
  | cons v l ih =>
    rw [List.length_cons] at hk
    have hindex : (BitVec.ofNat 5 k).toNat = k := Nat.mod_eq_of_lt (by omega)
    have hstep : writeBytes d ((v :: l).zipIdx k) =
        writeBytes (writeByte d (BitVec.ofNat 5 k) v) (l.zipIdx (k + 1)) := rfl
    rw [hstep, ih _ (k + 1) (by omega), getElem_writeByte, hindex]
    obtain hlt | rfl | hgt := Nat.lt_trichotomy k j
    · have hsub : j - k = (j - (k + 1)) + 1 := by omega
      simp [hlt.ne, hlt.le, Nat.succ_le_of_lt hlt, hsub]
    · simp
    · simp [hgt.ne', hgt.not_ge, show ¬ k + 1 ≤ j by omega]

theorem writeBytes_toList_zipIdx (d d' : Digest) : writeBytes d d'.toList.zipIdx = d' := by
  ext1 j hj
  rw [getElem_writeBytes_zipIdx d'.toList d 0 (by simp) j hj]
  simp [hj]

/-- The two loads of a comparison leave the digests in CMPA and CMPB and change nothing else. -/
theorem runsTo_loadDigests (dA dB : Digest) :
    RunsTo (loadDigestA dA ++ loadDigestB dB) b { b with cmpA := dA, cmpB := dB } := by
  have hA := runsTo_map_loadInstr (b := b) .cmpA dA.toList.zipIdx
  have hB := runsTo_map_loadInstr (b := { b with cmpA := dA }) .cmpB dB.toList.zipIdx
  rw [writeBytes_toList_zipIdx] at hA hB
  exact hA.append hB

end

/-- The loads of a comparison, then the command that compares. -/
theorem execAll_loadDigests_run (s : State) (dA dB : Digest) : ∃ rs : List Response, ∀ (run : Instr) (u : State),
    exec run ⟨s.cfg, { s.block with cmpA := dA, cmpB := dB }, s.input, s.responses ++ rs⟩ = .next u →
      execAll (loadDigestA dA ++ loadDigestB dB ++ [run]) s = .next u := by
  obtain ⟨rs, hloads⟩ := runsTo_loadDigests (b := s.block) dA dB s.input s.responses
  refine ⟨rs, fun run u hrun => ?_⟩
  rw [execAll_append _ _ _ _ hloads, execAll, hrun]
  rfl

/-! A comparison through the driver (44_host_interface.md R116). -/

theorem compareCommands_eq_ok {a b : DigestArg} {t : Option Int} {checks : Bool} {la lb : List Instr} {run : Instr}
    (ha : a.toA = .ok la) (hb : b.toB = .ok lb) (hrun : runCommand checks t = .ok run) :
    compareCommands a b t checks = .ok (la ++ lb ++ [run]) := by
  rw [compareCommands, ha, hb, hrun]

theorem toA_hexDigest (d : Digest) : (DigestArg.hex (hexDigest d)).toA = .ok (loadDigestA d) := by
  rw [DigestArg.toA, parseHexDigest_hexDigest]
  rfl

theorem toB_hexDigest (d : Digest) : (DigestArg.hex (hexDigest d)).toB = .ok (loadDigestB d) := by
  rw [DigestArg.toB, parseHexDigest_hexDigest]
  rfl

theorem toA_raw (d : Digest) : (DigestArg.raw (d.toList.map fun x => (x.toNat : Int))).toA = .ok (loadDigestA d) := by
  rw [DigestArg.toA, parseRawDigest_toList]
  rfl

/-- Nine bits hold each threshold in [-256, 255] (R15). -/
theorem toInt_ofInt_nine {t : Int} (hlow : -256 ≤ t) (hhigh : t ≤ 255) : (BitVec.ofInt 9 t).toInt = t := by
  rw [BitVec.toInt_ofInt]
  exact Int.bmod_eq_of_le (by norm_num; omega) (by norm_num; omega)

/-- The CMP_RUN that the driver issues for a legal or absent threshold compares under it. -/
theorem runCommand_of_legal (t : Option Int) (checks : Bool) (ht : ∀ x ∈ t, -128 ≤ x ∧ x ≤ 128) :
    ∃ run, runCommand checks t = .ok run ∧ ∀ s, exec run s = .next (completed s (s.block.compare t)
      (sext32 (scoreBits (s.block.compareResult t).1))) := by
  cases t with
  | none => exact ⟨_, rfl, exec_cmpRun⟩
  | some x =>
    obtain ⟨hlow, hhigh⟩ := ht x rfl
    have hthr : thresholdOf (BitVec.ofInt 9 x) = x := toInt_ofInt_nine (by omega) (by omega)
    have hlegal : thresholdLegal x = true := by simp [thresholdLegal, hlow, hhigh]
    refine ⟨.cmpRunThr (BitVec.ofInt 9 x), ?_, fun s => ?_⟩
    · have hfits : ¬ (x < -256 ∨ 255 < x) := by omega
      simp [runCommand, hlegal, hfits]
    · have hexec := exec_cmpRunThr_of_legal s (BitVec.ofInt 9 x) (by rwa [hthr])
      rwa [hthr] at hexec

/-- Settles O58: the loads, then the CMP_RUN of `runCommand_of_legal`, whose RDATA holds the result. -/
theorem compareThroughDriver : Obligations.CompareThroughDriver := by
  intro s a b t checks ht
  obtain ⟨run, hrun, hexec⟩ := runCommand_of_legal t checks ht
  obtain ⟨rs, hall⟩ := execAll_loadDigests_run s a b
  have hrange := compareResult_range { s.block with cmpA := a, cmpB := b } t
    fun x hx => by simpa [thresholdLegal] using ht x hx
  obtain ⟨hscore, hdata, -⟩ := score_and_rdata_exact hrange
  exact ⟨_, _, _, rs, compareCommands_eq_ok (toA_raw a) (toB_hexDigest b) hrun, hall run _ (hexec _), rfl,
    congrArg Except.ok (hdata.trans hscore), rfl, rfl, rfl⟩

/-! Rejected responses (44_host_interface.md R109, R117). -/

/-- A rejected response among those of a read-out decides it. -/
theorem digestOfResponses_of_rejected {rs : List Response} (hrej : ∃ r ∈ rs, r.rerr = true) :
    ∃ e, digestOfResponses rs = .error e := by
  induction rs with
  | nil => exact absurd hrej (by simp)
  | cons r rs ih =>
    rw [digestOfResponses]
    cases herr : r.rerr with
    | true => simp [checkedRdata, herr]
    | false =>
      obtain ⟨e, he⟩ := ih (by simpa [herr] using hrej)
      simp [checkedRdata, herr, he]

theorem digestOfResponses_of_completed {rs : List Response} (hok : ∀ r ∈ rs, r.rerr = false) :
    digestOfResponses rs = .ok (rs.map fun r => r.rdata.setWidth 8) := by
  induction rs with
  | nil => rfl
  | cons r rs ih =>
    obtain ⟨hr, hrs⟩ := List.forall_mem_cons.mp hok
    simp [digestOfResponses, checkedRdata, hr, ih hrs]

/-- Settles O59: the block rejects the threshold after the loads, with code 2, which the driver reports as
InvalidThreshold; a host that checks stops in `runCommand`. -/
theorem driverChecksRerr : Obligations.DriverChecksRerr := by
  refine ⟨fun v => ⟨_, rfl⟩, fun rs => digestOfResponses_of_rejected, fun rs => digestOfResponses_of_completed,
    fun s a b t hlow hhigh hillegal => ?_⟩
  obtain ⟨rs, hall⟩ := execAll_loadDigests_run s a b
  have hunchecked : runCommand false (some t) = .ok (.cmpRunThr (BitVec.ofInt 9 t)) := by
    simp [runCommand, hlow, hhigh]
  have hchecked : runCommand true (some t) = .error .invalidThreshold := by
    simp [runCommand, thresholdLegal, hillegal]
  have hexec (u : State) := exec_cmpRunThr_of_illegal u (BitVec.ofInt 9 t) (by rwa [toInt_ofInt_nine hlow hhigh])
  refine ⟨_, _, rs, ⟨true, 2⟩, compareCommands_eq_ok (toA_hexDigest a) (toB_hexDigest b) hunchecked,
    hall _ _ (hexec _), rfl, rfl, rfl, rfl, rfl, ?_⟩
  rw [compareCommands, toA_hexDigest, toB_hexDigest, hchecked]

end Sys2Proof.Machine

/-! Words of the spec, steps and reset (30_encoding.md R68, R72, 70_reset_and_hazards.md R138). -/

namespace Sys2Proof.Machine

/-- Settles O5: each word is the encoding of its command, and the illegal ones break their formats. -/
theorem specWordsDecode : Obligations.SpecWordsDecode :=
  ⟨rfl, rfl, rfl, rfl, rfl, rfl, rfl, rfl, rfl, rfl, rfl, rfl, rfl⟩

/-- Settles O6: `threshold_illegal_iff_pattern`, both ways. -/
theorem thresholdPatterns : Obligations.ThresholdPatterns := by
  intro thr
  have hlt := thr.isLt
  have hpattern := threshold_illegal_iff_pattern thr
  rw [← Bool.not_eq_true, thresholdLegal_iff]
  exact ⟨by omega, hpattern⟩

theorem tableWord_toNat (w : Word) : tableWord 32 w.toNat = w := by
  rw [tableWord, Nat.mod_eq_of_lt w.isLt, BitVec.ofNat_toNat, BitVec.setWidth_eq]

/-- Settles O8: `step_of_decode_ok`, for a word of the host's and for one put in front. -/
theorem stepRunsDecodedCommand : Obligations.StepRunsDecodedCommand := by
  refine ⟨step_of_decode_ok, fun s w i hd => ?_⟩
  rw [State.withFetchWord, tableWord_toNat]
  exact step_of_decode_ok (s.presentNext w) w s.input i rfl hd

/-- Settles O11: what `step` does with a reset and with no act, and the fields that ACC_CLEAR keeps. -/
theorem afterResetEmptyAndWaiting : Obligations.AfterResetEmptyAndWaiting := by
  obtain ⟨-, -, -, hstatus⟩ := statusWordFields
  exact ⟨rfl, hstatus, step_of_nil, fun s rest hin => ⟨_, step_of_reset s rest hin, rfl⟩⟩

/-! The table TRAN (10_state.md R37, R38). -/

/-- No number of the list occurs twice or is marked in `seen`, whose bits are the numbers seen before. -/
def distinctFrom (seen : Nat) : List Nat → Bool
  | [] => true
  | n :: ns => !seen.testBit n && distinctFrom (seen ||| 2 ^ n) ns

theorem nodup_of_distinctFrom {seen : Nat} {ns : List Nat} (h : distinctFrom seen ns = true) :
    ns.Nodup ∧ ∀ n ∈ ns, seen.testBit n = false := by
  induction ns generalizing seen with
  | nil => exact ⟨List.nodup_nil, nofun⟩
  | cons n ns ih =>
    simp only [distinctFrom, Bool.and_eq_true, Bool.not_eq_true'] at h
    obtain ⟨hnodup, hunseen⟩ := ih h.2
    simp only [Nat.testBit_or, Nat.testBit_two_pow, Bool.or_eq_false_iff, decide_eq_false_iff_not] at hunseen
    exact ⟨List.nodup_cons.mpr ⟨fun hmem => (hunseen n hmem).2 rfl, hnodup⟩,
      List.forall_mem_cons.mpr ⟨h.1, fun m hm => (hunseen m hm).1⟩⟩

/-- Settles O21: the table is a constant; that no entry occurs twice is checked with one mark per entry. -/
theorem tranIsPermutation : Obligations.TranIsPermutation := by
  have hdistinct : distinctFrom 0 (tranTable.map BitVec.toNat) = true := by decide +kernel
  exact ⟨by decide +kernel, (nodup_of_distinctFrom hdistinct).1.of_map _, by decide +kernel⟩

/-- Settles O22: procedure and table are constants, so the procedure is run, 256 rounds from the empty table. -/
theorem tranIsProcedureOutput : Obligations.TranIsProcedureOutput := by
  unfold Obligations.TranIsProcedureOutput
  decide +kernel

end Sys2Proof.Machine

/-! The parts of an assembly line (30_encoding.md R72). -/

namespace Sys2Proof.Machine

/-! Blanks at the ends. -/

/-- Neither the first nor the last character is a blank. -/
def NonblankEnds (cs : List Char) : Prop :=
  (∀ c ∈ cs.head?, isBlank c = false) ∧ ∀ c ∈ cs.getLast?, isBlank c = false

theorem dropWhile_isBlank_append {blanks cs : List Char} (hblanks : ∀ c ∈ blanks, isBlank c = true)
    (hhead : ∀ c ∈ cs.head?, isBlank c = false) : (blanks ++ cs).dropWhile isBlank = cs := by
  rw [List.dropWhile_append_of_pos hblanks]
  cases cs with
  | nil => rfl
  | cons c cs => rw [List.dropWhile_cons_of_neg (by simp [hhead c rfl])]

/-- Blanks around a text with none at its ends are dropped. -/
theorem trimBlanks_of_blanks {pre cs suf : List Char} (hpre : ∀ c ∈ pre, isBlank c = true)
    (hcs : NonblankEnds cs) (hsuf : ∀ c ∈ suf, isBlank c = true) : trimBlanks (pre ++ (cs ++ suf)) = cs := by
  obtain ⟨hhead, hlast⟩ := hcs
  rw [← List.head?_reverse] at hlast
  have hsuf' : ∀ c ∈ suf.reverse, isBlank c = true := fun c hc => hsuf c (List.mem_reverse.mp hc)
  cases cs with
  | nil =>
    have hall : (pre ++ ([] ++ suf)).dropWhile isBlank = [] :=
      List.dropWhile_eq_nil_iff.mpr fun c hc => (List.mem_append.mp hc).elim (hpre c) (hsuf c)
    rw [trimBlanks, hall]
    rfl
  | cons c cs =>
    rw [trimBlanks, dropWhile_isBlank_append (cs := c :: cs ++ suf) hpre hhead, List.reverse_append,
      dropWhile_isBlank_append hsuf' hlast, List.reverse_reverse]

theorem trimBlanks_of_nonblankEnds {cs : List Char} (hcs : NonblankEnds cs) : trimBlanks cs = cs := by
  simpa using trimBlanks_of_blanks (pre := []) (suf := []) nofun hcs nofun

theorem exists_blanks_before (cs : List Char) : ∃ blanks : List Char, (∀ c ∈ blanks, isBlank c = true) ∧
    (∀ c ∈ (cs.dropWhile isBlank).head?, isBlank c = false) ∧ cs = blanks ++ cs.dropWhile isBlank := by
  refine ⟨cs.takeWhile isBlank, fun c hc => List.mem_takeWhile_imp hc, fun c hc => ?_,
    List.takeWhile_append_dropWhile.symm⟩
  have hnot := List.head?_dropWhile_not isBlank cs
  rw [hc] at hnot
  exact hnot

/-- A text is its trimmed text with blanks around it. -/
theorem exists_blanks_around (cs : List Char) : ∃ pre suf : List Char, (∀ c ∈ pre, isBlank c = true) ∧
    NonblankEnds (trimBlanks cs) ∧ (∀ c ∈ suf, isBlank c = true) ∧ cs = pre ++ (trimBlanks cs ++ suf) := by
  obtain ⟨pre, hpre, hhead, hcs⟩ := exists_blanks_before cs
  obtain ⟨suf, hsuf, hlast, hrest⟩ := exists_blanks_before (cs.dropWhile isBlank).reverse
  have htrim : cs.dropWhile isBlank = trimBlanks cs ++ suf.reverse := by
    rw [← List.reverse_reverse (cs.dropWhile isBlank), hrest, List.reverse_append]
    rfl
  refine ⟨pre, suf.reverse, hpre, ⟨fun c hc => hhead c ?_, fun c hc => hlast c ?_⟩,
    fun c hc => hsuf c (List.mem_reverse.mp hc), by rw [← htrim, ← hcs]⟩
  · rw [htrim, List.head?_append, hc]
    rfl
  · rwa [trimBlanks, List.getLast?_reverse] at hc


theorem trimBlanks_append_blanks (cs : List Char) {blanks : List Char} (hblanks : ∀ c ∈ blanks, isBlank c = true) :
    trimBlanks (cs ++ blanks) = trimBlanks cs := by
  obtain ⟨pre, suf, hpre, hends, hsuf, hcs⟩ := exists_blanks_around cs
  have hend : ∀ c ∈ suf ++ blanks, isBlank c = true := fun c hc => (List.mem_append.mp hc).elim (hsuf c) (hblanks c)
  calc trimBlanks (cs ++ blanks) = trimBlanks (pre ++ (trimBlanks cs ++ (suf ++ blanks))) := by
        rw [← List.append_assoc (trimBlanks cs), ← List.append_assoc pre, ← hcs]
    _ = trimBlanks cs := trimBlanks_of_blanks hpre hends hend

/-- A blank is no letter and separates nothing but operands' text. -/
theorem plain_of_isBlank {c : Char} (hc : isBlank c = true) :
    isMnemonicChar c = false ∧ c ≠ quoteChar ∧ c ≠ commentChar ∧ c ≠ commaChar := by
  have hcode : c.toNat = 32 ∨ c.toNat = 9 := by simpa [isBlank] using hc
  have hchar : c = Char.ofNat 32 ∨ c = Char.ofNat 9 := by
    rw [← Char.ofNat_toNat c]
    exact hcode.imp (congrArg Char.ofNat) (congrArg Char.ofNat)
  obtain rfl | rfl := hchar
  · decide
  · decide

/-! A line's mnemonic and its operands. -/

/-- What `assembleLine` does with a line without blanks at its ends. -/
def assembleBody (body : List Char) : Option (Option Instr) :=
  let mnemonic := body.takeWhile isMnemonicChar
  let rest := body.dropWhile isMnemonicChar
  let pieces := (splitOperands 0 [] rest).map trimBlanks
  let ops := if pieces = [[]] then [] else pieces.map parseOperand
  if !endsMnemonic rest then none
  else if mnemonic.isEmpty then (if pieces = [[]] then some none else none)
  else (assembleCommand (String.ofList mnemonic) ops).map some

theorem assembleLine_eq (line : List Char) : assembleLine line = assembleBody (trimBlanks line) := rfl

/-- The characters of a mnemonic end where another character follows. -/
theorem mnemonic_append (cs rest : List Char) (hrest : ∀ c ∈ rest.head?, isMnemonicChar c = false) :
    (cs ++ rest).takeWhile isMnemonicChar = cs.takeWhile isMnemonicChar ∧
      (cs ++ rest).dropWhile isMnemonicChar = cs.dropWhile isMnemonicChar ++ rest := by
  induction cs with
  | nil =>
    cases rest with
    | nil => exact ⟨rfl, rfl⟩
    | cons c rest => simp [hrest c rfl]
  | cons c cs ih =>
    cases hc : isMnemonicChar c with
    | true => simp [hc, ih]
    | false => simp [hc]

/-! A comment. -/

/-- Blanks at the end of the last operand are trimmed, and the comment ends it. -/
theorem map_trimBlanks_splitOperands_comment (cs blanks comment acc : List Char) (hquote : quoteChar ∉ cs)
    (hblanks : ∀ c ∈ blanks, isBlank c = true) :
    (splitOperands 0 acc (cs ++ (blanks ++ commentChar :: comment))).map trimBlanks =
      (splitOperands 0 acc cs).map trimBlanks := by
  induction cs generalizing acc with
  | nil =>
    have hsplit : splitOperands 0 acc (blanks ++ commentChar :: comment) = [acc.reverse ++ blanks] := by
      rw [splitOperands_plain blanks _ _ fun c hc => (plain_of_isBlank (hblanks c hc)).2]
      simp [splitOperands, show commentChar ≠ quoteChar by decide]
    rw [List.nil_append, hsplit, splitOperands, List.map_singleton, List.map_singleton,
      trimBlanks_append_blanks _ hblanks]
  | cons c cs ih =>
    obtain ⟨hc, hcs⟩ := List.ne_and_not_mem_of_not_mem_cons hquote
    simp only [List.cons_append, splitOperands, hc.symm, false_and, if_false]
    split_ifs
    · rfl
    · simp [ih _ hcs]
    · exact ih _ hcs

theorem assembleBody_comment (body blanks comment : List Char) (hquote : quoteChar ∉ body)
    (hblanks : ∀ c ∈ blanks, isBlank c = true) :
    assembleBody (body ++ (blanks ++ commentChar :: comment)) = assembleBody body := by
  have hhead : ∀ c ∈ (blanks ++ commentChar :: comment).head?,
      isMnemonicChar c = false ∧ (isBlank c || c = commentChar) = true := by
    cases blanks with
    | nil => rintro _ ⟨⟩; decide
    | cons b blanks =>
      rintro _ ⟨⟩
      have hb := hblanks b List.mem_cons_self
      exact ⟨(plain_of_isBlank hb).1, by simp [hb]⟩
  obtain ⟨hmnemonic, hrest⟩ := mnemonic_append body _ fun c hc => (hhead c hc).1
  have hends (rest : List Char) : endsMnemonic (rest ++ (blanks ++ commentChar :: comment)) = endsMnemonic rest := by
    cases rest with
    | nil => cases blanks with
      | nil => exact (hhead _ rfl).2
      | cons b blanks => exact (hhead _ rfl).2
    | cons c rest => rfl
  have hpieces := map_trimBlanks_splitOperands_comment (body.dropWhile isMnemonicChar) blanks comment []
    (fun hmem => hquote ((List.dropWhile_sublist _).mem hmem)) hblanks
  simp only [assembleBody, hmnemonic, hrest, hends, hpieces]

/-- A comment is no blank at its start, so only its end is trimmed. -/
theorem exists_comment_trimmed (comment : List Char) : ∃ comment' suf : List Char,
    NonblankEnds (commentChar :: comment') ∧ (∀ c ∈ suf, isBlank c = true) ∧
    commentChar :: comment = commentChar :: comment' ++ suf := by
  have hsemicolon : ¬ isBlank commentChar = true := by decide
  obtain ⟨pre, suf, hpre, hends, hsuf, heq⟩ := exists_blanks_around (commentChar :: comment)
  cases pre with
  | cons c pre => exact absurd (hpre commentChar (by rw [(List.cons.inj heq).1]; simp)) hsemicolon
  | nil =>
    generalize trimBlanks (commentChar :: comment) = body at hends heq
    cases body with
    | nil => exact absurd (hsuf commentChar (by rw [show suf = commentChar :: comment from heq.symm]; simp)) hsemicolon
    | cons c body =>
      obtain ⟨rfl, -⟩ := List.cons.inj heq
      exact ⟨body, suf, hends, hsuf, heq⟩

theorem exists_trimBlanks_comment (line comment : List Char) : ∃ blanks comment' : List Char,
    (∀ c ∈ blanks, isBlank c = true) ∧
    trimBlanks (line ++ commentChar :: comment) = trimBlanks line ++ (blanks ++ commentChar :: comment') := by
  obtain ⟨pre, suf, hpre, ⟨hhead, -⟩, hsuf, hline⟩ := exists_blanks_around line
  obtain ⟨comment', suf', ⟨-, hlast⟩, hsuf', hcomment⟩ := exists_comment_trimmed comment
  generalize trimBlanks line = body at hhead hline ⊢
  cases body with
  | nil =>
    refine ⟨[], comment', nofun, ?_⟩
    have hpre' : ∀ c ∈ pre ++ suf, isBlank c = true := fun c hc => (List.mem_append.mp hc).elim (hpre c) (hsuf c)
    calc trimBlanks (line ++ commentChar :: comment)
        = trimBlanks (pre ++ suf ++ (commentChar :: comment' ++ suf')) := by rw [hline, hcomment]; rfl
      _ = commentChar :: comment' := trimBlanks_of_blanks hpre' ⟨by rintro _ ⟨⟩; decide, hlast⟩ hsuf'
  | cons c body =>
    refine ⟨suf, comment', hsuf, ?_⟩
    have hends : NonblankEnds (c :: body ++ (suf ++ commentChar :: comment')) :=
      ⟨hhead, by rwa [← List.append_assoc, List.getLast?_append_cons]⟩
    calc trimBlanks (line ++ commentChar :: comment)
        = trimBlanks (pre ++ (c :: body ++ (suf ++ commentChar :: comment') ++ suf')) := by
          rw [hline, hcomment]; simp
      _ = c :: body ++ (suf ++ commentChar :: comment') := trimBlanks_of_blanks hpre hends hsuf'

theorem assembleLine_comment (line comment : List Char) (hquote : quoteChar ∉ line) :
    assembleLine (line ++ commentChar :: comment) = assembleLine line := by
  obtain ⟨blanks, comment', hblanks, htrim⟩ := exists_trimBlanks_comment line comment
  have hbody : quoteChar ∉ trimBlanks line := by
    obtain ⟨pre, suf, -, -, -, hline⟩ := exists_blanks_around line
    intro hmem
    exact hquote (hline ▸ by simp [hmem])
  rw [assembleLine_eq, assembleLine_eq, htrim, assembleBody_comment _ _ _ hbody hblanks]

end Sys2Proof.Machine

/-! Lines with operands (30_encoding.md R72). -/

namespace Sys2Proof.Machine

/-- An operand's text: no blank at its ends, and it goes whole into the current piece. -/
structure OperandText (t : List Char) : Prop where
  ne_nil : t ≠ []
  ends : NonblankEnds t
  split : ∀ acc rest, splitOperands 0 acc (t ++ rest) = splitOperands 0 (t.reverse ++ acc) rest

/-- A character that is no blank, quote, comment or comma. -/
def PlainChar (c : Char) : Prop := isBlank c = false ∧ c ≠ quoteChar ∧ c ≠ commentChar ∧ c ≠ commaChar

theorem operandText_of_plainChar {t : List Char} (hne : t ≠ []) (ht : ∀ c ∈ t, PlainChar c) : OperandText t where
  ne_nil := hne
  ends := ⟨fun c hc => (ht c (List.mem_of_mem_head? hc)).1, fun c hc => (ht c (List.mem_of_getLast? hc)).1⟩
  split acc rest := splitOperands_plain t rest acc fun c hc => (ht c hc).2

theorem mem_toDigits {b : Nat} (hb : 1 < b) {n : Nat} {c : Char} (hc : c ∈ Nat.toDigits b n) :
    ∃ d < b, c = Nat.digitChar d := by
  induction n using Nat.strongRecOn with
  | ind n ih =>
    rw [Nat.toDigits_eq_if hb] at hc
    split at hc
    · next h => exact ⟨n, h, List.mem_singleton.mp hc⟩
    · next h =>
      obtain hlead | hlast := List.mem_append.mp hc
      · exact ih (n / b) (Nat.div_lt_self (by omega) hb) hlead
      · exact ⟨n % b, Nat.mod_lt n (by omega), List.mem_singleton.mp hlast⟩

theorem plainChar_of_mem_toDigits {b : Nat} (hb : 1 < b) (hb16 : b ≤ 16) {n : Nat} {c : Char}
    (hc : c ∈ Nat.toDigits b n) : PlainChar c := by
  have hdigits : ∀ d < 16, PlainChar (Nat.digitChar d) := by unfold PlainChar; decide
  obtain ⟨d, hd, rfl⟩ := mem_toDigits hb hc
  exact hdigits d (by omega)

theorem operandText_decimalText (v : Int) : OperandText (decimalText v) := by
  have hdigit : ∀ c ∈ Nat.toDigits 10 v.natAbs, PlainChar c := fun c =>
    plainChar_of_mem_toDigits (by decide) (by decide)
  unfold decimalText
  split
  · exact operandText_of_plainChar (List.cons_ne_nil _ _)
      (List.forall_mem_cons.mpr ⟨by unfold PlainChar; decide, hdigit⟩)
  · exact operandText_of_plainChar Nat.toDigits_ne_nil hdigit

theorem operandText_hexText (n : Nat) : OperandText (hexText n) := by
  have hdigit : ∀ c ∈ Nat.toDigits 16 n, PlainChar c := fun c => plainChar_of_mem_toDigits (by decide) (by decide)
  have hprefix : PlainChar '0' ∧ PlainChar 'x' := by unfold PlainChar; decide
  exact operandText_of_plainChar (List.cons_ne_nil _ _)
    (List.forall_mem_cons.mpr ⟨hprefix.1, List.forall_mem_cons.mpr ⟨hprefix.2, hdigit⟩⟩)

/-- A literal's quotes are its ends, and what stands between them is taken as it is. -/
theorem operandText_charText (c : Char) : OperandText (charText c) := by
  have hquote : isBlank quoteChar = false := by decide
  refine ⟨List.cons_ne_nil _ _, ⟨?_, ?_⟩, fun acc rest => by simp [charText, splitOperands]⟩
  · rintro _ ⟨⟩; exact hquote
  · rintro _ ⟨⟩; exact hquote

theorem operandText_selName : OperandText ['A'] ∧ OperandText ['B'] := by
  have hplain : PlainChar 'A' ∧ PlainChar 'B' := by unfold PlainChar; decide
  exact ⟨operandText_of_plainChar (List.cons_ne_nil _ _) (by simpa using hplain.1),
    operandText_of_plainChar (List.cons_ne_nil _ _) (by simpa using hplain.2)⟩

section
variable {t : List Char} {ts : List (List Char)}

/-- The operands are cut at their commas, each with the blank before it. -/
theorem splitOperands_intercalate (ht : ∀ u ∈ t :: ts, OperandText u) :
    splitOperands 0 [] (' ' :: List.intercalate [',', ' '] (t :: ts)) = (t :: ts).map (' ' :: ·) := by
  have hblank (rest : List Char) : splitOperands 0 [] (' ' :: rest) = splitOperands 0 [' '] rest :=
    splitOperands_plain [' '] rest [] (List.forall_mem_singleton.mpr (plain_of_isBlank rfl).2)
  have hcomma (acc rest : List Char) : splitOperands 0 acc (',' :: rest) = acc.reverse :: splitOperands 0 [] rest := by
    have hquote : ',' ≠ quoteChar := by decide
    have hcomment : ',' ≠ commentChar := by decide
    rw [splitOperands, if_neg (fun h => hquote h.1), if_neg hcomment]
    exact if_pos rfl
  induction ts generalizing t with
  | nil =>
    have hsplit := (ht t List.mem_cons_self).split [' '] []
    rw [List.append_nil] at hsplit
    rw [hblank, List.intercalate_singleton, hsplit, splitOperands]
    simp
  | cons u us ih =>
    rw [hblank, List.intercalate_cons_cons, List.append_assoc, (ht t List.mem_cons_self).split, List.cons_append,
      hcomma, List.singleton_append, ih fun w hw => ht w (List.mem_cons_of_mem t hw)]
    simp

theorem getLast?_blank_cons_intercalate (ht : ∀ u ∈ t :: ts, OperandText u) :
    ∀ c ∈ (' ' :: List.intercalate [',', ' '] (t :: ts)).getLast?, isBlank c = false := by
  induction ts generalizing t with
  | nil =>
    obtain ⟨hne, ⟨-, hlast⟩, -⟩ := ht t List.mem_cons_self
    obtain ⟨a, t', rfl⟩ := List.exists_cons_of_ne_nil hne
    rwa [List.intercalate_singleton, List.getLast?_cons_cons]
  | cons u us ih =>
    have htext : ' ' :: List.intercalate [',', ' '] (t :: u :: us) =
        (' ' :: t ++ [',']) ++ ' ' :: List.intercalate [',', ' '] (u :: us) := by
      simp [List.intercalate_cons_cons]
    rw [htext, List.getLast?_append_cons]
    exact ih fun w hw => ht w (List.mem_cons_of_mem t hw)

/-- The mnemonics that take operands (R72). -/
def operandMnemonics : List String := ["ACC_INGEST", "ACC_RDDIG", "CMP_RUN", "CMP_LDA", "CMP_LDB", "CMP_RDOP"]

theorem mnemonicChars_of_mem : ∀ m ∈ operandMnemonics,
    m.toList ≠ [] ∧ m.toList.all isMnemonicChar = true := by
  decide +kernel

/-- A line of a mnemonic and operands is that command with these operands. -/
theorem assembleLine_asmLine {mnemonic : String} (hmem : mnemonic ∈ operandMnemonics)
    (ht : ∀ u ∈ t :: ts, OperandText u) :
    assembleLine (asmLine mnemonic (t :: ts)) = (assembleCommand mnemonic ((t :: ts).map parseOperand)).map some := by
  obtain ⟨hne, hall⟩ := mnemonicChars_of_mem mnemonic hmem
  have hm : ∀ c ∈ mnemonic.toList, isMnemonicChar c = true := List.all_eq_true.mp hall
  have hhead : ∀ c ∈ (asmLine mnemonic (t :: ts)).head?, isBlank c = false := by
    intro c hc
    rw [asmLine, List.head?_append_of_ne_nil _ hne] at hc
    refine Bool.eq_false_iff.mpr fun hblank => ?_
    exact absurd (hm c (List.mem_of_mem_head? hc)) (by simp [(plain_of_isBlank hblank).1])
  have hlast : ∀ c ∈ (asmLine mnemonic (t :: ts)).getLast?, isBlank c = false := by
    rw [asmLine, List.getLast?_append_cons]
    exact getLast?_blank_cons_intercalate ht
  obtain ⟨hmnemonic, hrest⟩ := mnemonic_append mnemonic.toList (' ' :: List.intercalate [',', ' '] (t :: ts))
    (by rintro _ ⟨⟩; decide)
  rw [List.takeWhile_eq_self_iff.mpr hm] at hmnemonic
  rw [List.dropWhile_eq_nil_iff.mpr hm, List.nil_append] at hrest
  have htrim (u : List Char) (hu : u ∈ t :: ts) : trimBlanks (' ' :: u) = u := by
    have hblank : ∀ c ∈ [' '], isBlank c = true := List.forall_mem_singleton.mpr rfl
    simpa using trimBlanks_of_blanks (suf := []) hblank (ht u hu).ends nofun
  have hpieces : (splitOperands 0 [] (' ' :: List.intercalate [',', ' '] (t :: ts))).map trimBlanks = t :: ts := by
    rw [splitOperands_intercalate ht, List.map_map]
    exact (List.map_congr_left htrim).trans (List.map_id _)
  have hoperands : t :: ts ≠ [[]] := fun h => (ht t List.mem_cons_self).ne_nil (List.cons.inj h).1
  have hends : endsMnemonic (' ' :: List.intercalate [',', ' '] (t :: ts)) = true := rfl
  rw [assembleLine_eq, trimBlanks_of_nonblankEnds ⟨hhead, hlast⟩, assembleBody]
  rw [← asmLine] at hmnemonic hrest
  simp [hmnemonic, hrest, hpieces, hends, hoperands, hne]

end

end Sys2Proof.Machine

/-! The assembler's commands (30_encoding.md R72). -/

namespace Sys2Proof.Machine

/-! Operands in their ranges. -/

theorem exists_byteOperand {v : Int} (hv : 0 ≤ v ∧ v ≤ 255) :
    ∃ c : Byte, (c.toNat : Int) = v ∧ byteOperand (.num v) = some c :=
  ⟨_, toNat_ofInt_of_byte hv, if_pos hv⟩

theorem exists_idxOperand {v : Int} (hv : 0 ≤ v ∧ v ≤ 31) :
    ∃ k : DigestIdx, (k.toNat : Int) = v ∧ idxOperand (.num v) = some k :=
  ⟨BitVec.ofInt 5 v, by rw [BitVec.toNat_ofInt]; omega, if_pos hv⟩

theorem thresholdOperand_num (v : Int) :
    thresholdOperand (.num v) = if -128 ≤ v ∧ v ≤ 128 then some (BitVec.ofInt 9 v) else none := by
  simp [thresholdOperand, thresholdLegal]

/-- An accepted threshold has a legal pattern (R68). -/
theorem thrPatternLegal_of_thresholdOperand {a : AsmOperand} {thr : Nine} (h : thresholdOperand a = some thr) :
    thrPatternLegal thr = true := by
  cases a with
  | num v =>
    rw [thresholdOperand_num] at h
    split at h
    · next hv =>
      cases h
      have hthr : (BitVec.ofInt 9 v).toInt = v := toInt_ofInt_nine (by omega) (by omega)
      have hlegal := (thresholdLegal_iff _).mpr (hthr.symm ▸ hv)
      simpa [thrPatternLegal] using (thresholdPatterns _).1.mp hlegal
    · cases h
  | char code => cases h
  | name cs => cases h

/-- Of the commands with an ill-formed operand, the assembler's table has CMP_RUN only, and checks it. -/
theorem wellFormed_of_assembleCommand {mnemonic : String} {ops : List AsmOperand} {i : Instr}
    (h : assembleCommand mnemonic ops = some i) : i.wellFormed = true := by
  unfold assembleCommand at h
  split at h
  · split_ifs at h <;> cases h <;> rfl
  · split_ifs at h
    · obtain ⟨c, -, rfl⟩ := Option.map_eq_some_iff.mp h; rfl
    · obtain ⟨k, -, rfl⟩ := Option.map_eq_some_iff.mp h; rfl
    · obtain ⟨thr, hthr, rfl⟩ := Option.map_eq_some_iff.mp h
      exact thrPatternLegal_of_thresholdOperand hthr
  · split_ifs at h
    · obtain ⟨k, -, hk⟩ := Option.bind_eq_some_iff.mp h
      obtain ⟨c, -, rfl⟩ := Option.map_eq_some_iff.mp hk; rfl
    · obtain ⟨k, -, hk⟩ := Option.bind_eq_some_iff.mp h
      obtain ⟨c, -, rfl⟩ := Option.map_eq_some_iff.mp hk; rfl
    · obtain ⟨sel, -, hsel⟩ := Option.bind_eq_some_iff.mp h
      obtain ⟨k, -, rfl⟩ := Option.map_eq_some_iff.mp hsel; rfl
  · cases h

theorem wellFormed_of_assembleLine {line : List Char} {i : Instr} (h : assembleLine line = some (some i)) :
    i.wellFormed = true := by
  have hcommand {mnemonic : String} {ops : List AsmOperand}
      (hline : (assembleCommand mnemonic ops).map some = some (some i)) : i.wellFormed = true :=
    wellFormed_of_assembleCommand (Option.map_injective (Option.some_injective _) hline)
  simp only [assembleLine_eq, assembleBody] at h
  split_ifs at h
  · cases h
  · exact hcommand h
  · exact hcommand h

/-! One line of each command with operands. -/

section
variable {t u : List Char}

theorem assembleLine_accIngest (ht : OperandText t) :
    assembleLine (asmLine "ACC_INGEST" [t]) = ((byteOperand (parseOperand t)).map .accIngest).map some := by
  rw [assembleLine_asmLine (by simp [operandMnemonics]) (by simpa using ht)]
  simp [assembleCommand]

theorem assembleLine_accRddig (ht : OperandText t) :
    assembleLine (asmLine "ACC_RDDIG" [t]) = ((idxOperand (parseOperand t)).map .accRddig).map some := by
  rw [assembleLine_asmLine (by simp [operandMnemonics]) (by simpa using ht)]
  simp [assembleCommand]

theorem assembleLine_cmpRun (ht : OperandText t) :
    assembleLine (asmLine "CMP_RUN" [t]) = ((thresholdOperand (parseOperand t)).map .cmpRunThr).map some := by
  rw [assembleLine_asmLine (by simp [operandMnemonics]) (by simpa using ht)]
  simp [assembleCommand]

theorem assembleLine_cmpLda (ht : OperandText t) (hu : OperandText u) :
    assembleLine (asmLine "CMP_LDA" [t, u]) = ((idxOperand (parseOperand t)).bind fun k =>
      (byteOperand (parseOperand u)).map (.cmpLda k)).map some := by
  rw [assembleLine_asmLine (by simp [operandMnemonics]) (by simpa using ⟨ht, hu⟩)]
  simp [assembleCommand]

theorem assembleLine_cmpLdb (ht : OperandText t) (hu : OperandText u) :
    assembleLine (asmLine "CMP_LDB" [t, u]) = ((idxOperand (parseOperand t)).bind fun k =>
      (byteOperand (parseOperand u)).map (.cmpLdb k)).map some := by
  rw [assembleLine_asmLine (by simp [operandMnemonics]) (by simpa using ⟨ht, hu⟩)]
  simp [assembleCommand]

theorem assembleLine_cmpRdop (hu : OperandText u) :
    assembleLine (asmLine "CMP_RDOP" [['A'], u]) = ((idxOperand (parseOperand u)).map (.cmpRdop .cmpA)).map some ∧
    assembleLine (asmLine "CMP_RDOP" [['B'], u]) = ((idxOperand (parseOperand u)).map (.cmpRdop .cmpB)).map some := by
  obtain ⟨hA, hB⟩ := operandText_selName
  rw [assembleLine_asmLine (by simp [operandMnemonics]) (by simpa using ⟨hA, hu⟩),
    assembleLine_asmLine (by simp [operandMnemonics]) (by simpa using ⟨hB, hu⟩)]
  exact ⟨rfl, rfl⟩

end


/-- The commands without operands, each as it is written (R72). -/
theorem assembleLine_bare_mnemonics : ∀ p ∈ [("NOP", Instr.nop), ("ACC_CLEAR", .accClear),
      ("ACC_FINALIZE", .accFinalize), ("ACC_RDCNT", .accRdcnt), ("CMP_CPYA", .cmpCpya), ("CMP_CPYB", .cmpCpyb),
      ("CMP_RUN", .cmpRun), ("RD_STATUS", .rdStatus), ("ST_CLEAR", .stClear), ("RD_SCORE", .rdScore)],
    assembleLine p.1.toList = some (some p.2) := by
  decide +kernel

/-- Settles O60: what each line assembles to is the operand's own acceptance, which is by its range. -/
theorem assembledCommandsWellFormed : Obligations.AssembledCommandsWellFormed := by
  refine ⟨fun line i => wellFormed_of_assembleLine, assembleLine_bare_mnemonics, fun v => ⟨?_, ?_, ?_⟩,
    fun u v => ?_, fun n mnemonic hm => ?_, fun c hc => ⟨?_, ?_, ?_⟩, assembleLine_comment⟩
  · rw [assembleLine_accIngest (operandText_decimalText v), parseOperand_decimalText]
    split_ifs with hv
    · obtain ⟨c, hc, hop⟩ := exists_byteOperand hv
      exact ⟨c, hc, by rw [hop]; rfl⟩
    · rw [byteOperand, if_neg hv]
      rfl
  · obtain ⟨hA, hB⟩ := assembleLine_cmpRdop (operandText_decimalText v)
    rw [assembleLine_accRddig (operandText_decimalText v), hA, hB, parseOperand_decimalText]
    split_ifs with hv
    · obtain ⟨k, hk, hop⟩ := exists_idxOperand hv
      exact ⟨k, hk, by rw [hop]; exact ⟨rfl, rfl, rfl⟩⟩
    · rw [idxOperand, if_neg hv]
      exact ⟨rfl, rfl, rfl⟩
  · rw [assembleLine_cmpRun (operandText_decimalText v), parseOperand_decimalText, thresholdOperand_num]
    split_ifs with hv
    · exact ⟨_, toInt_ofInt_nine (by omega) (by omega), rfl⟩
    · rfl
  · rw [assembleLine_cmpLda (operandText_decimalText u) (operandText_decimalText v),
      assembleLine_cmpLdb (operandText_decimalText u) (operandText_decimalText v), parseOperand_decimalText,
      parseOperand_decimalText]
    split_ifs with huv
    · obtain ⟨k, hk, hidx⟩ := exists_idxOperand huv.1
      obtain ⟨c, hc, hbyte⟩ := exists_byteOperand huv.2
      exact ⟨k, c, hk, hc, by rw [hidx, hbyte]; exact ⟨rfl, rfl⟩⟩
    · obtain hu | hv := not_and_or.mp huv
      · rw [idxOperand, if_neg hu]
        exact ⟨rfl, rfl⟩
      · rw [byteOperand, if_neg hv]
        simp
  · have hmem : mnemonic ∈ operandMnemonics := List.mem_append_left ["CMP_LDA", "CMP_LDB", "CMP_RDOP"] hm
    rw [assembleLine_asmLine hmem (by simpa using operandText_hexText n),
      assembleLine_asmLine hmem (by simpa using operandText_decimalText n), List.map_singleton, List.map_singleton,
      parseOperand_hexText, parseOperand_decimalText]
  · rw [assembleLine_accIngest (operandText_charText c), parseOperand_charText c hc]
    exact ⟨_, by rw [BitVec.toNat_ofNat]; omega, rfl⟩
  · rw [assembleLine_accRddig (operandText_charText c), parseOperand_charText c hc]
    rfl
  · rw [assembleLine_cmpRun (operandText_charText c), parseOperand_charText c hc]
    rfl

end Sys2Proof.Machine
